-- ==== Sys2Proof/Word.lean ====
section
/-! DEFINITION. The word types of the KSG core: every data value is a byte (spec 00_scope.md R7, 20_memory.md R34),
and the one multi-byte item is the 16-bit command word (30_encoding.md R45). -/

namespace Sys2Proof

/-- A byte: an unsigned 8-bit value. Its `+` is addition reduced modulo 256 (R8, R65). -/
abbrev Byte := BitVec 8

/-- A command word (R45). -/
abbrev Word := BitVec 16

end Sys2Proof
end

