-- ==== Sys2Proof/Syntax.lean ====
section
/-! DEFINITION. The commands of KSG-CMD version 1: one constructor per row of spec/opcode_table.json
(30_encoding.md R46). The only operand is one byte, taken whole (R47). -/

namespace Sys2Proof

inductive Instr where
  /-- NOP (R82). -/
  | nop
  /-- KEY_BEGIN (R56). -/
  | keyBegin
  /-- KEY_BYTE `d` (R57). -/
  | keyByte (d : Byte)
  /-- KEY_END (R59). -/
  | keyEnd
  /-- PEEK (R72). -/
  | peek
  /-- ADVANCE (R73). -/
  | advance
  /-- NEXT (R74). -/
  | next
  /-- CRYPT `d` (R76). -/
  | crypt (d : Byte)
  /-- STATUS (R83). -/
  | status
  /-- RD_S `a` (R85). -/
  | rdS (a : Byte)
  /-- RD_I (R86). -/
  | rdI
  /-- RD_J (R87). -/
  | rdJ
  /-- RD_KCNT (R84). -/
  | rdKcnt
  /-- CLEAR (R88). -/
  | clear
  deriving DecidableEq, Repr

end Sys2Proof
end

