-- ==== Sys2Proof/WellFormed.lean ====
section
/-! DEFINITION. Which command words are well formed: R48's legality, clause by clause. An `Instr` needs no check of its own:
its only operand is a `Byte`, and every byte is an operand (R47), so every term of `Instr` is well formed. The words are
where an ill-formed term exists, and `Word.legal` refuses each kind of it. -/

namespace Sys2Proof

/-- R48, first clause: `op` is not one of the reserved 0xE and 0xF. -/
def Word.opAssigned (w : Word) : Bool :=
  decide (w.toNat / 4096 ≤ 0xD)

/-- R48, second clause: `rsv`, bits 11:8, is zero. -/
def Word.rsvZero (w : Word) : Bool :=
  decide (w.toNat / 256 % 16 = 0)

/-- R48, third clause: only KEY_BYTE (0x2), CRYPT (0x7) and RD_S (0x9) may carry a nonzero `data`. -/
def Word.dataAllowed (w : Word) : Bool :=
  decide (w.toNat / 4096 ∈ [0x2, 0x7, 0x9] ∨ w.toNat % 256 = 0)

/-- R48: `legal(word)`. -/
def Word.legal (w : Word) : Bool :=
  Word.opAssigned w && Word.rsvZero w && Word.dataAllowed w

end Sys2Proof
end

