-- ==== Sys2Proof/Decode.lean ====
section
/-! DEFINITION. The decoder (total on every word and every string of bytes; an illegal word is rejected by name), the
encoder, and the opcode table as data (30_encoding.md R45 to R49; spec/opcode_table.json). -/

namespace Sys2Proof

/-! ## Fields of a command word (R45) -/

/-- `op = word[15:12]`. -/
def opField (w : Word) : BitVec 4 := w.extractLsb' 12 4

/-- `rsv = word[11:8]`. -/
def rsvField (w : Word) : BitVec 4 := w.extractLsb' 8 4

/-- `data = word[7:0]`. -/
def dataField (w : Word) : Byte := w.extractLsb' 0 8

/-- `word = {op, rsv, data}`. -/
def wordOfFields (op rsv : BitVec 4) (data : Byte) : Word := op ++ rsv ++ data

/-! ## Decoding -/

/-- Why a word is illegal (R48). The core answers all three alike (ILLEGAL, R89); where a word breaks several clauses, the
one named is the first in this order (log entry 13). `truncated` is a byte-serial transport that ends inside a word. -/
inductive DecodeError where
  | reservedOpcode
  | reservedBits
  | operandNotZero
  | truncated
  deriving DecidableEq, Repr

/-- A command without operand: `data` must be 0x00 (R45). -/
def withoutOperand (data : Byte) (i : Instr) : Except DecodeError Instr :=
  if data = 0 then .ok i else .error .operandNotZero

/-- The command that `op` selects (R46), with its operand (R47). -/
def selectCommand (op : BitVec 4) (data : Byte) : Except DecodeError Instr :=
  match op.toNat with
  | 0x0 => withoutOperand data .nop
  | 0x1 => withoutOperand data .keyBegin
  | 0x2 => .ok (.keyByte data)
  | 0x3 => withoutOperand data .keyEnd
  | 0x4 => withoutOperand data .peek
  | 0x5 => withoutOperand data .advance
  | 0x6 => withoutOperand data .next
  | 0x7 => .ok (.crypt data)
  | 0x8 => withoutOperand data .status
  | 0x9 => .ok (.rdS data)
  | 0xA => withoutOperand data .rdI
  | 0xB => withoutOperand data .rdJ
  | 0xC => withoutOperand data .rdKcnt
  | 0xD => withoutOperand data .clear
  | _ => .error .reservedOpcode

/-- The decoder: total on all 65536 words (R48, R49). -/
def decode (w : Word) : Except DecodeError Instr :=
  if 0xE ≤ (opField w).toNat then .error .reservedOpcode
  else if rsvField w ≠ 0 then .error .reservedBits
  else selectCommand (opField w) (dataField w)

/-! ## Byte-serial transport (R34, D20): bits 15:8 first -/

/-- The word that two bytes of a byte-serial transport carry, in the order sent. -/
def wordOfBytes (first second : Byte) : Word := first ++ second

/-- The two bytes that carry a word, in the order sent. -/
def bytesOfWord (w : Word) : List Byte := [w.extractLsb' 8 8, w.extractLsb' 0 8]

/-- Decode the next command of a string of bytes, and give the bytes that follow it. -/
def decodeBytes : List Byte → Except DecodeError (Instr × List Byte)
  | first :: second :: rest => (decode (wordOfBytes first second)).map (fun i => (i, rest))
  | _ => .error .truncated

/-! ## Encoding -/

/-- The opcode of a command (R46). -/
def opcode : Instr → BitVec 4
  | .nop => 0x0
  | .keyBegin => 0x1
  | .keyByte _ => 0x2
  | .keyEnd => 0x3
  | .peek => 0x4
  | .advance => 0x5
  | .next => 0x6
  | .crypt _ => 0x7
  | .status => 0x8
  | .rdS _ => 0x9
  | .rdI => 0xA
  | .rdJ => 0xB
  | .rdKcnt => 0xC
  | .clear => 0xD

/-- The operand byte of a command; 0x00 where it has none (R45, R47). -/
def operand : Instr → Byte
  | .keyByte d => d
  | .crypt d => d
  | .rdS a => a
  | .nop | .keyBegin | .keyEnd | .peek | .advance | .next | .status | .rdI | .rdJ | .rdKcnt | .clear => 0

/-- The word of a command: `rsv` is 0b0000 in every one (R45). -/
def encode (i : Instr) : Word := wordOfFields (opcode i) 0 (operand i)

/-! ## The opcode table -/

/-- The mnemonic of a command, as the table and R46 spell it. -/
def mnemonic : Instr → String
  | .nop => "NOP"
  | .keyBegin => "KEY_BEGIN"
  | .keyByte _ => "KEY_BYTE"
  | .keyEnd => "KEY_END"
  | .peek => "PEEK"
  | .advance => "ADVANCE"
  | .next => "NEXT"
  | .crypt _ => "CRYPT"
  | .status => "STATUS"
  | .rdS _ => "RD_S"
  | .rdI => "RD_I"
  | .rdJ => "RD_J"
  | .rdKcnt => "RD_KCNT"
  | .clear => "CLEAR"

/-- One row of spec/opcode_table.json: a word is the row's when its bits under `mask` are `pattern` (the row's "match"). -/
structure OpcodeRow where
  name : String
  pattern : Word
  mask : Word
  deriving DecidableEq, Repr

/-- The word is one of the row's words. -/
def OpcodeRow.accepts (r : OpcodeRow) (w : Word) : Bool := (w &&& r.mask) == r.pattern

/-- spec/opcode_table.json, row by row. -/
def opcodeTable : List OpcodeRow :=
  [ ⟨"NOP", 0x0000, 0xFFFF⟩,
    ⟨"KEY_BEGIN", 0x1000, 0xFFFF⟩,
    ⟨"KEY_BYTE", 0x2000, 0xFF00⟩,
    ⟨"KEY_END", 0x3000, 0xFFFF⟩,
    ⟨"PEEK", 0x4000, 0xFFFF⟩,
    ⟨"ADVANCE", 0x5000, 0xFFFF⟩,
    ⟨"NEXT", 0x6000, 0xFFFF⟩,
    ⟨"CRYPT", 0x7000, 0xFF00⟩,
    ⟨"STATUS", 0x8000, 0xFFFF⟩,
    ⟨"RD_S", 0x9000, 0xFF00⟩,
    ⟨"RD_I", 0xA000, 0xFFFF⟩,
    ⟨"RD_J", 0xB000, 0xFFFF⟩,
    ⟨"RD_KCNT", 0xC000, 0xFFFF⟩,
    ⟨"CLEAR", 0xD000, 0xFFFF⟩ ]

/-! ## The host's view of one table row -/

/-- The command word whose low `nbits` bits are `w`'s and whose other bits are zero: the table gives every row 16 bits,
numbered as the port numbers them (R45, R49). -/
def tableWord (nbits w : Nat) : Word := BitVec.ofNat 16 (w % 2 ^ nbits)

/-- What the decoder reads from the table's word, handed over as a byte-serial transport sends it (high byte first, R34). -/
def decodeTableWord (nbits w : Nat) : Option Instr :=
  match decodeBytes (bytesOfWord (tableWord nbits w)) with
  | .ok (i, _) => some i
  | .error _ => none

end Sys2Proof
end

