-- ==== Sys2Proof/Config.lean ====
section
/-! DEFINITION. What the spec leaves to an implementation, as constants without a body: nothing can be proved of their
values, so whatever is proved holds for all of them. -/

namespace Sys2Proof

/-- FREE VALUE (R28, R106, U4: "A model takes the reset value of `S` as a free draw of 256 bytes"). The byte that entry
`a` of the array `S` holds after the reset number `draw`. Log entry 1. -/
opaque Config.powerOnByte : (draw : Nat) → (a : Byte) → Byte

/-- OPEN PARAMETER `CMD_LATENCY` (R6, R44, R114): the time from command accept to response. "no rule depends on it", and
nothing in the model does. Log entry 12. -/
opaque Config.cmdLatency : Nat

end Sys2Proof
end

