-- ==== Sys2Proof/Machine/State.lean ====
section
/-! DEFINITION. The state of the KSG core as plain data: R13's tuple, the port of R44, and the host's pending moves; the two
ways a step can stop; the state after reset (10_state.md R13 to R20, R28; 30_encoding.md R44; 70_reset_and_hazards.md R106). -/

namespace Sys2Proof.Machine

/-- The array `S` (R14, R30): the entries written since the last reset, as (index, byte) pairs with indices strictly
rising. An index that is not listed holds the free value of that reset (log entries 1 and 2). -/
abbrev Memory := List Host.Cell

/-- The core's control state (R18); its code 3 never occurs (U13), so the type has three values. -/
inductive Mode where
  | idle
  | loading
  | ready
  deriving DecidableEq, Repr

/-- The response codes, which are also the values of `err` (R91, R20). Codes 4 to 7 never occur (U12, U14), so the type has
four values. `ok` is code 0: OK in a response, NONE in `err`. -/
inductive Code where
  | ok
  | invalidKeySize
  | badState
  | illegal
  deriving DecidableEq, Repr

/-- The range of `kcount`: 0 to 257 (R19); it saturates, so 258 to 511 never occur (U16). -/
abbrev KeyCount := Fin 258

/-- A response, `(code, data)` (R44). -/
structure Response where
  code : Code
  data : Byte
  deriving DecidableEq, Repr

/-- One move of the host at the port (R44, R105). The model's own, as an input (log entry 3). -/
inductive HostMove where
  /-- Hold a command word on the command port until the core accepts it. -/
  | offer (w : Word)
  /-- Take the outstanding response. -/
  | take
  /-- Assert `rst` between commands, or power the core on (R104, R106). -/
  | rst
  /-- Offer a command word and assert `rst` while it is being performed (R107, log entry 7); while a response is
  outstanding, when no command can be in progress, a reset that also withdraws the word (log entry 18: DESIGN CHOICE). -/
  | rstDuring (w : Word)
  deriving DecidableEq, Repr

structure State where
  /-- the array `S` (R14) -/
  S : Memory
  /-- the position counter (R15) -/
  i : Byte
  /-- the accumulator (R16) -/
  j : Byte
  /-- the sequencer's current output byte (R17) -/
  cur : Byte
  /-- the control state (R18) -/
  mode : Mode
  /-- key bytes since the last KEY_BEGIN, saturating at 257 (R19) -/
  kcount : KeyCount
  /-- the code of the latest failed command (R20) -/
  err : Code
  /-- the word the host holds on the command port, not yet accepted (R44: `cmd_valid`, `cmd`) -/
  cmd : Option Word
  /-- the response not yet taken by the host (R44: `rsp_valid`, `rsp_code`, `rsp_data`) -/
  rsp : Option Response
  /-- the model's own: the host's moves still to come, oldest first (log entry 3) -/
  host : List HostMove
  /-- the model's own: the number of resets so far, the argument of the free value of `S` (log entry 1) -/
  draw : Nat
  deriving DecidableEq, Repr

/-- Why the machine stops. No command's meaning stops: errors of commands are responses (R97), and the core has no terminal
state (R115). -/
inductive Fault where
  /-- Raised by `step` when the HOST changes the word on the command port before the core accepted it (R105, U7: "`stuck`:
  the model gives that host no move"). Safe: the spec gives no behaviour there. Log entry 8. -/
  | commandChanged
  deriving DecidableEq, Repr

/-- Why a command has no meaning here. -/
inductive Refusal where
  /-- Raised by an arm of `exec` for a command that is not modelled yet; no arm uses it any more. Safe. -/
  | notModelled (mnemonic : String)
  deriving DecidableEq, Repr

/-- The core right after its first power-on (R28, R106): `S` free, everything else as R28's table says. The port is idle and
the host has no move pending (log entries 1 and 3: DESIGN CHOICE for `cmd`, `rsp`, `host` and `draw`). -/
def State.reset : State where
  S := []
  i := 0
  j := 0
  cur := 0
  mode := .idle
  kcount := 0
  err := .ok
  cmd := none
  rsp := none
  host := []
  draw := 0

end Sys2Proof.Machine
end

