-- ==== Sys2Proof/Machine/Ops.lean ====
section
/-! DEFINITION. The shared operations: reading and writing the array `S`, responding, raising an error (the core's whole
exception mechanism, 60_exceptions.md R93, R97), and reset. There is no return from an error (R98): the next command is
performed normally, so nothing stands beside `raiseError` for it. -/

namespace Sys2Proof.Machine

/-! ## The array S (R9, R30) -/

/-- The byte listed for index `a`, if that entry was written since the last reset. -/
def Memory.read? : Memory → Nat → Option Byte
  | [], _ => none
  | (b, v) :: m, a => if b = a then some v else Memory.read? m a

/-- The memory with the byte `v` at index `a`, in rising order of indices. -/
def Memory.write : Memory → Nat → Byte → Memory
  | [], a, v => [(a, v)]
  | (b, u) :: m, a, v =>
    if a < b then (a, v) :: (b, u) :: m
    else if a = b then (a, v) :: m
    else (b, u) :: Memory.write m a v

/-- Indices strictly rising from `lo` on and below 256, the size of the address space (R30). -/
def Memory.wfFrom : Nat → Memory → Bool
  | _, [] => true
  | lo, (a, _) :: m => decide (lo ≤ a ∧ a < 256) && Memory.wfFrom (a + 1) m

/-- The canonical form: indices strictly rising, all below 256. An unlisted index reads as "not written since reset", which
is no byte, so no listed byte equals it. -/
def Memory.wf (m : Memory) : Bool := Memory.wfFrom 0 m

/-- `S[a]` (R9): the listed byte, or the free byte of the last reset (log entry 1). -/
def State.readS (s : State) (a : Byte) : Byte :=
  (s.S.read? a.toNat).getD (Config.powerOnByte s.draw a)

/-- `S[a] <- v` (R9). -/
def State.writeS (s : State) (a v : Byte) : State :=
  { s with S := s.S.write a.toNat v }

/-- All 256 bytes of `S`, in index order. -/
def State.contents (s : State) : List Byte :=
  (List.range 256).map (fun a => s.readS (BitVec.ofNat 8 a))

/-! ## Ending a command (R9, R44, R93) -/

/-- `respond(code, data)` (R44). -/
def respond (code : Code) (data : Byte) (s : State) : State :=
  { s with rsp := some ⟨code, data⟩ }

/-- `raise E` (R93): `err <- E`, then `respond(E, 0x00)`; nothing else changes. -/
def raiseError (e : Code) (s : State) : State :=
  respond e 0 { s with err := e }

/-! ## Reset (R106) -/

/-- Power-on, or `rst` between commands: every element of R13 at its reset value, with a fresh free draw for `S`. No
response: one not yet taken is gone, and a word held on the command port stays the host's (log entry 6). -/
def powerOn (s : State) : State :=
  { s with
    S := [], i := 0, j := 0, cur := 0, mode := .idle, kcount := 0, err := .ok, rsp := none, draw := s.draw + 1 }

end Sys2Proof.Machine
end

