-- ==== Sys2Proof/Machine/Generator.lean ====
section
/-! DEFINITION. GenStep, the generation step (41_generator.md R63), statement by statement in R63's order (R40, R111). -/

namespace Sys2Proof.Machine

/-- Step 3 of R63: exchange `S[h]` and `S[q]`, as its two writes in order. -/
def swapS (h q : Byte) (s : State) : State :=
  let t := s.readS h
  let s := s.writeS h (s.readS q)
  s.writeS q t

/-- `GenStep()` (R63): the byte it yields and the state it leaves. -/
def genStep (s : State) : Byte × State :=
  let s := { s with i := s.i + 1 }
  let h := s.i
  let s := { s with j := s.j + s.readS h }
  let q := s.j
  let s := swapS h q s
  let w := s.readS h + s.readS q
  (s.readS w, s)

/-- `cur <- GenStep()` (R59, R73, R74, R76). -/
def drawCur (s : State) : State :=
  { (genStep s).2 with cur := (genStep s).1 }

end Sys2Proof.Machine
end

