-- ==== Sys2Proof/Machine/Operands.lean ====
section
/-! DEFINITION. Operands and the modes a command is legal in. The one operand form is the byte `word[7:0]`, taken whole
(30_encoding.md R47): the decoder hands it over as a `Byte`. What is left here is the index and the count that come from
`kcount` (R57, R84), and R94's table. -/

namespace Sys2Proof.Machine

/-- The entry of `S` that the next key byte goes to, as an index (R57; used only while `kcount < 256`). -/
def keyEntry (k : KeyCount) : Byte := BitVec.ofNat 8 k.val

/-- `kcount` after one more key byte: one more while it is below 256, else 257 (R57, R19). -/
def countKeyByte (k : KeyCount) : KeyCount :=
  Fin.ofNat 258 (if k.val < 256 then k.val + 1 else 257)

/-- `kcount[7:0]` (R84). -/
def kcountLow (k : KeyCount) : Byte := BitVec.ofNat 8 k.val

/-- R94's table: the modes in which each command is legal. -/
def allowed : Instr → Mode → Bool
  | .nop, _ | .keyBegin, _ | .status, _ | .rdKcnt, _ | .clear, _ => true
  | .keyByte _, m | .keyEnd, m => m == .loading
  | .peek, m | .advance, m | .next, m | .crypt _, m | .rdS _, m | .rdI, m | .rdJ, m => m == .ready

end Sys2Proof.Machine
end

