-- ==== Sys2Proof/Machine/Construction.lean ====
section
/-! DEFINITION. Key loading: KEY_BEGIN, KEY_BYTE, KEY_END (40_construction.md R56, R57, R59). -/

namespace Sys2Proof.Machine

/-- KEY_BEGIN (R56). -/
def execKeyBegin (s : State) : Host.Outcome State Fault Refusal :=
  .next (respond .ok 0 { s with mode := .loading, kcount := 0, err := .ok })

/-- KEY_BYTE `d` (R57). A byte beyond the 256th is dropped without an error, and the count saturates. -/
def execKeyByte (d : Byte) (s : State) : Host.Outcome State Fault Refusal :=
  if s.mode ≠ .loading then .next (raiseError .badState s)
  else if s.kcount.val < 256 then
    .next (respond .ok 0 { s.writeS (keyEntry s.kcount) d with kcount := countKeyByte s.kcount })
  else
    .next (respond .ok 0 { s with kcount := countKeyByte s.kcount })

/-- KEY_END (R59): on a wrong count `mode <- IDLE` stands before the raise (R93, C7); else the generator starts at
`i = j = 0` and one byte is drawn into `cur`. -/
def execKeyEnd (s : State) : Host.Outcome State Fault Refusal :=
  if s.mode ≠ .loading then .next (raiseError .badState s)
  else if s.kcount.val ≠ 256 then .next (raiseError .invalidKeySize { s with mode := .idle })
  else .next (respond .ok 0 { drawCur { s with i := 0, j := 0 } with mode := .ready })

end Sys2Proof.Machine
end

