-- ==== Sys2Proof/Machine/Flags.lean ====
section
/-! DEFINITION. The status view (10_state.md R24) and the bit codes of its fields and of a response (R18, R91, R44). The core
has no condition codes (R23). -/

namespace Sys2Proof.Machine

/-- R18: IDLE = 0, LOADING = 1, READY = 2. -/
def modeCode : Mode → BitVec 2
  | .idle => 0
  | .loading => 1
  | .ready => 2

/-- R91: the 3-bit code. -/
def codeBits : Code → BitVec 3
  | .ok => 0
  | .invalidKeySize => 1
  | .badState => 2
  | .illegal => 3

/-- KFULL, STATUS bit 5: `kcount >= 256` (R24). -/
def kfull (k : KeyCount) : Bool := decide (256 ≤ k.val)

/-- KOVF, STATUS bit 6: `kcount == 257` (R24). -/
def kovf (k : KeyCount) : Bool := decide (k.val = 257)

/-- The status view `{0b0, KOVF, KFULL, ERR, MODE}` (R24). -/
def statusByte (s : State) : Byte :=
  0#1 ++ BitVec.ofBool (kovf s.kcount) ++ BitVec.ofBool (kfull s.kcount) ++ codeBits s.err ++ modeCode s.mode

/-- The 11 bits of a response, `{code[2:0], data[7:0]}` (R44, R6). -/
def responseBits (r : Response) : BitVec 11 := codeBits r.code ++ r.data

end Sys2Proof.Machine
end

