-- ==== Sys2Proof/Machine/Control.lean ====
section
/-! DEFINITION. Control and observation: NOP, STATUS, RD_KCNT, RD_S, RD_I, RD_J, CLEAR (44_control.md R82 to R88). -/

namespace Sys2Proof.Machine

/-- NOP (R82); it does not clear `err`. -/
def execNop (s : State) : Host.Outcome State Fault Refusal :=
  .next (respond .ok 0 s)

/-- STATUS (R83); reading it does not clear `err`. -/
def execStatus (s : State) : Host.Outcome State Fault Refusal :=
  .next (respond .ok (statusByte s) s)

/-- RD_KCNT (R84). -/
def execRdKcnt (s : State) : Host.Outcome State Fault Refusal :=
  .next (respond .ok (kcountLow s.kcount) s)

/-- RD_S `a` (R85). -/
def execRdS (a : Byte) (s : State) : Host.Outcome State Fault Refusal :=
  if s.mode ≠ .ready then .next (raiseError .badState s)
  else .next (respond .ok (s.readS a) s)

/-- RD_I (R86). -/
def execRdI (s : State) : Host.Outcome State Fault Refusal :=
  if s.mode ≠ .ready then .next (raiseError .badState s)
  else .next (respond .ok s.i s)

/-- RD_J (R87). -/
def execRdJ (s : State) : Host.Outcome State Fault Refusal :=
  if s.mode ≠ .ready then .next (raiseError .badState s)
  else .next (respond .ok s.j s)

/-- CLEAR (R88): everything of R13 but `S` at its reset value. That it writes `i`, `j` and `cur` is R88's and R28's;
R22's table leaves CLEAR out there (log entry 11). -/
def execClear (s : State) : Host.Outcome State Fault Refusal :=
  .next (respond .ok 0 { s with mode := .idle, kcount := 0, err := .ok, i := 0, j := 0, cur := 0 })

end Sys2Proof.Machine
end

