-- ==== Sys2Proof/Machine/Sequence.lean ====
section
/-! DEFINITION. The byte-output sequencer: PEEK, ADVANCE, NEXT (42_sequence.md R72 to R74). -/

namespace Sys2Proof.Machine

/-- PEEK (R72). -/
def execPeek (s : State) : Host.Outcome State Fault Refusal :=
  if s.mode ≠ .ready then .next (raiseError .badState s)
  else .next (respond .ok s.cur s)

/-- ADVANCE (R73): the old `cur` is lost and no byte is returned. -/
def execAdvance (s : State) : Host.Outcome State Fault Refusal :=
  if s.mode ≠ .ready then .next (raiseError .badState s)
  else .next (respond .ok 0 (drawCur s))

/-- NEXT (R74): the byte returned is the one drawn before this draw. -/
def execNext (s : State) : Host.Outcome State Fault Refusal :=
  if s.mode ≠ .ready then .next (raiseError .badState s)
  else .next (respond .ok s.cur (drawCur s))

end Sys2Proof.Machine
end

