-- ==== Sys2Proof/Machine/Stream.lean ====
section
/-! DEFINITION. Stream operations: CRYPT (43_stream_ops.md R76). The streams themselves are the host's (R75, R80). -/

namespace Sys2Proof.Machine

/-- CRYPT `d` (R76): `d XOR cur` with the `cur` from before the draw. -/
def execCrypt (d : Byte) (s : State) : Host.Outcome State Fault Refusal :=
  if s.mode ≠ .ready then .next (raiseError .badState s)
  else .next (respond .ok (d ^^^ s.cur) (drawCur s))

end Sys2Proof.Machine
end

