-- ==== Sys2Proof/Machine/Dispatch.lean ====
section
/-! DEFINITION. One arm per command (60_exceptions.md R89, "perform the command rule of op"). -/

namespace Sys2Proof.Machine

def exec (i : Instr) (s : State) : Host.Outcome State Fault Refusal :=
  match i with
  | .nop => Sys2Proof.Machine.execNop s
  | .keyBegin => Sys2Proof.Machine.execKeyBegin s
  | .keyByte d => Sys2Proof.Machine.execKeyByte d s
  | .keyEnd => Sys2Proof.Machine.execKeyEnd s
  | .peek => Sys2Proof.Machine.execPeek s
  | .advance => Sys2Proof.Machine.execAdvance s
  | .next => Sys2Proof.Machine.execNext s
  | .crypt d => Sys2Proof.Machine.execCrypt d s
  | .status => Sys2Proof.Machine.execStatus s
  | .rdS a => Sys2Proof.Machine.execRdS a s
  | .rdI => Sys2Proof.Machine.execRdI s
  | .rdJ => Sys2Proof.Machine.execRdJ s
  | .rdKcnt => Sys2Proof.Machine.execRdKcnt s
  | .clear => Sys2Proof.Machine.execClear s

end Sys2Proof.Machine
end

