-- ==== Sys2Proof/Machine/Port.lean ====
section
/-! DEFINITION. The port (30_encoding.md R44): performing an accepted word (60_exceptions.md R89), and the host's moves
(R105). -/

namespace Sys2Proof.Machine

/-- `Step(word)` of R89 on the word just accepted: an illegal word raises ILLEGAL before any mode is looked at; a legal one
is performed, its mode check first. -/
def performWord (w : Word) (s : State) : Host.Outcome State Fault Refusal :=
  match decode w with
  | .error _ => .next (raiseError .illegal s)
  | .ok i => exec i s

/-- Put a word on the command port, with no response outstanding: the core accepts it in the next step. -/
def offerWord (w : Word) (s : State) : State :=
  { s with cmd := some w, rsp := none }

/-- A word may be put on the command port, or held there unchanged, but not changed before it is accepted (R105, U7). -/
def portFree (w : Word) (s : State) : Bool := s.cmd == none || s.cmd == some w

/-- The host's next move, made while the core performs no command. With no move pending the core waits, its state held
(R104, R108, log entry 9).

`rstDuring w` is R107's reset only where `w` could be being performed, with no response outstanding. Made while a response is
outstanding, R44 lets no command be in progress, and U6 gives that host no move: DESIGN CHOICE (log entry 18, unsafe), the core
resets, and the word the host held or offers is gone unperformed (`cmd := none`), where a plain `rst` keeps a held word (log
entry 6). -/
def hostStep (s : State) : Host.Outcome State Fault Refusal :=
  match s.host with
  | [] => .next s
  | .offer w :: rest =>
    if portFree w s then .next { s with cmd := some w, host := rest } else .fault .commandChanged
  | .take :: rest => .next { s with rsp := none, host := rest }
  | .rst :: rest => .next (powerOn { s with host := rest })
  | .rstDuring w :: rest =>
    if portFree w s then .next (powerOn { s with cmd := none, host := rest }) else .fault .commandChanged

/-- One step of the machine: a word on the command port with no response outstanding is accepted and performed, whole
(R11, R36, R44); else the host makes its next move (log entry 5). -/
def portStep (s : State) : Host.Outcome State Fault Refusal :=
  match s.cmd, s.rsp with
  | some w, none => performWord w { s with cmd := none }
  | _, _ => hostStep s

end Sys2Proof.Machine
end

