-- ==== Sys2Proof/Machine/Step.lean ====
section
/-! DEFINITION. The step, and how one word is placed where the next step takes it. -/

namespace Sys2Proof.Machine

/-- One step of the core and its port (Machine/Port.lean; R44, R89). -/
def step (s : State) : Host.Outcome State Fault Refusal := portStep s

/-- `s` with the table's word on the command port and no response outstanding, so that the very next step accepts and
performs it: the core fetches nothing (R21, R35), and its "program" is what the host offers (log entry 4). -/
def State.withFetchWord (s : State) (nbits w : Nat) : State := offerWord (tableWord nbits w) s

end Sys2Proof.Machine
end

