-- ==== Sys2Proof/Machine/Assembly.lean ====
section
/-! DEFINITION. The spelling of a command word and the reading of one assembler line (30_encoding.md R51). Host text: no
behaviour of the core depends on it (D24, log entry 16). Text is a list of characters. -/

namespace Sys2Proof.Machine

/-! ## Spelling -/

/-- An upper-case hexadecimal digit. -/
def hexDigit (d : Nat) : Char := Char.ofNat (if d < 10 then 48 + d else 55 + d)

/-- `0x` and two digits. -/
def hexByte (b : Byte) : List Char :=
  ['0', 'x', hexDigit (b.toNat / 16), hexDigit (b.toNat % 16)]

/-- `0x` and four digits. -/
def hexWord (w : Word) : List Char :=
  ['0', 'x', hexDigit (w.toNat / 4096), hexDigit (w.toNat / 256 % 16), hexDigit (w.toNat / 16 % 16),
    hexDigit (w.toNat % 16)]

/-- The spelling of a command: its mnemonic and, where it has an operand, the operand in hexadecimal (R51). -/
def spellInstr (i : Instr) : List Char :=
  match i with
  | .keyByte d => (mnemonic i).toList ++ ' ' :: hexByte d
  | .crypt d => (mnemonic i).toList ++ ' ' :: hexByte d
  | .rdS a => (mnemonic i).toList ++ ' ' :: hexByte a
  | .nop | .keyBegin | .keyEnd | .peek | .advance | .next | .status | .rdI | .rdJ | .rdKcnt | .clear =>
    (mnemonic i).toList

/-- The spelling of a word; an illegal one is `.word 0xHHHH` (R51). -/
def spellWord (w : Word) : List Char :=
  match decode w with
  | .ok i => spellInstr i
  | .error _ => ".word ".toList ++ hexWord w

/-! ## Reading one line -/

/-- The value of a hexadecimal digit, either case. -/
def hexValue (c : Char) : Option Nat :=
  let n := c.toNat
  if 48 ≤ n ∧ n ≤ 57 then some (n - 48)
  else if 65 ≤ n ∧ n ≤ 70 then some (n - 55)
  else if 97 ≤ n ∧ n ≤ 102 then some (n - 87)
  else none

/-- The value of a decimal digit. -/
def decValue (c : Char) : Option Nat :=
  if 48 ≤ c.toNat ∧ c.toNat ≤ 57 then some (c.toNat - 48) else none

/-- A string of digits in the given base, most significant first, onto what is already read. -/
def digitsValue (base : Nat) (value : Char → Option Nat) : Nat → List Char → Option Nat
  | acc, [] => some acc
  | acc, c :: cs =>
    match value c with
    | none => none
    | some v => digitsValue base value (acc * base + v) cs

/-- A number: `0x` and at least one hexadecimal digit, or at least one decimal digit (R51, R7). -/
def numberValue : List Char → Option Nat
  | '0' :: 'x' :: c :: cs => digitsValue 16 hexValue 0 (c :: cs)
  | c :: cs => digitsValue 10 decValue 0 (c :: cs)
  | [] => none

/-- A byte operand: a number up to 255 or, where `literal` allows it, an ASCII character in single quotes (R51). -/
def byteOperand (literal : Bool) (cs : List Char) : Option Byte :=
  match literal, cs with
  | true, ['\'', c, '\''] => if c.toNat < 128 then some (BitVec.ofNat 8 c.toNat) else none
  | _, _ =>
    match numberValue cs with
    | some n => if n < 256 then some (BitVec.ofNat 8 n) else none
    | none => none

/-- A blank. -/
def isBlank (c : Char) : Bool := c == ' ' || c == '\t'

/-- Split a line into its tokens: blanks separate them and `;` starts a comment, but neither does inside a character
literal. `cur` is the token being read, its characters in order. -/
def tokens : List Char → List Char → List (List Char)
  | cur, [] => if cur = [] then [] else [cur]
  | cur, '\'' :: c :: '\'' :: cs => tokens (cur ++ ['\'', c, '\'']) cs
  | cur, c :: cs =>
    if c = ';' then (if cur = [] then [] else [cur])
    else if isBlank c then (if cur = [] then tokens [] cs else cur :: tokens [] cs)
    else tokens (cur ++ [c]) cs

/-- The commands without operand. -/
def plainCommands : List Instr :=
  [.nop, .keyBegin, .keyEnd, .peek, .advance, .next, .status, .rdI, .rdJ, .rdKcnt, .clear]

/-- The command a mnemonic without operand names. -/
def plainCommand (name : List Char) : Option Instr :=
  plainCommands.find? (fun i => (mnemonic i).toList == name)

/-- The command a mnemonic with an operand names. Only KEY_BYTE and CRYPT take a character literal (R51). -/
def operandCommand (name arg : List Char) : Option Instr :=
  if name = "KEY_BYTE".toList then (byteOperand true arg).map .keyByte
  else if name = "CRYPT".toList then (byteOperand true arg).map .crypt
  else if name = "RD_S".toList then (byteOperand false arg).map .rdS
  else none

/-- The word of a `.word` line: a number up to 0xFFFF. -/
def wordOperand (arg : List Char) : Option Word :=
  match numberValue arg with
  | some n => if n < 65536 then some (BitVec.ofNat 16 n) else none
  | none => none

/-- The word of one assembler line; none for a line that R51 does not allow, and for one that holds no command. -/
def assembleLine (line : List Char) : Option Word :=
  match tokens [] line with
  | [name] => (plainCommand name).map encode
  | [name, arg] =>
    if name = ".word".toList then wordOperand arg else (operandCommand name arg).map encode
  | _ => none

end Sys2Proof.Machine
end

