-- ==== Sys2Proof/Machine/Script.lean ====
section
/-! DEFINITION. Runs of commands as the host sees them (30_encoding.md R44, 20_memory.md R39): one transaction, a session of
transactions, the host moves that carry a session out at the port, and the pseudo-commands (R52). Nothing of the core is
defined here: every response comes from `step`. -/

namespace Sys2Proof.Machine

/-- One transaction (R44): the host offers a word, the core accepts and performs it, the host takes the response. -/
def transact (w : Word) (s : State) : Option (Response × State) :=
  match step (offerWord w s) with
  | .next t => t.rsp.map (fun r => (r, { t with rsp := none }))
  | .fault _ => none
  | .refused _ => none

/-- The transactions of a list of words in order: the responses, oldest first, and the state after the last (R39, R115). -/
def session : List Word → State → Option (List Response × State)
  | [], s => some ([], s)
  | w :: ws, s =>
    match transact w s with
    | none => none
    | some (r, t) => (session ws t).map (fun p => (r :: p.1, p.2))

/-- The words of a list of commands. -/
def words (is : List Instr) : List Word := is.map encode

/-- The host moves of a session: each word offered, each response taken before the next word (R105). -/
def hostScript : List Word → List HostMove
  | [] => []
  | w :: ws => .offer w :: .take :: hostScript ws

/-! ## Pseudo-commands (R52): host text, expanded to commands -/

/-- KEY_BEGIN and the key bytes in order, without KEY_END (R33). -/
def sendKey (key : List Byte) : List Instr := .keyBegin :: key.map .keyByte

/-- `LOADKEY`: R52 has it with exactly 256 bytes; with another number it is the failing construction of R54. -/
def loadKey (key : List Byte) : List Instr := sendKey key ++ [.keyEnd]

/-- The key of `LOADKEY_IDENTITY`: 0, 1, ..., 255. -/
def identityKey : List Byte := (List.range 256).map (BitVec.ofNat 8)

/-- `LOADKEY_IDENTITY`. -/
def loadKeyIdentity : List Instr := loadKey identityKey

/-- `KEYSTREAM N`. -/
def keystreamCmds (n : Nat) : List Instr := List.replicate n .next

/-- `CRYPTBYTES p0, ..., pL-1`. -/
def cryptCmds (ps : List Byte) : List Instr := ps.map .crypt

/-- `DUMPS`. -/
def dumpCmds : List Instr := (List.range 256).map (fun a => .rdS (BitVec.ofNat 8 a))

end Sys2Proof.Machine
end

