-- ==== Sys2Proof/Safety.lean ====
section
/-! DEFINITION. The terms claims use: the source's generator as a function of its state (41_generator.md R64), the keystream
(42_sequence.md R70), and the machine's invariant. Nothing here is used by the step. -/

namespace Sys2Proof

/-! ## The source's generator, written from the closed form of R64

The machine runs R63 statement by statement on `State`; this is the same step in R64's closed form, on an array as a
function. Claims compare the two. -/

/-- The source's GeneratorState. -/
structure Gen where
  S : Byte → Byte
  i : Byte
  j : Byte

/-- One call of the source's `next()` in R64's closed form. -/
def Gen.call (g : Gen) : Byte × Gen :=
  let h := g.i + 1
  let q := g.j + g.S h
  let w := g.S h + g.S q
  let out := if w = h then g.S q else if w = q then g.S h else g.S w
  (out, ⟨fun a => if a = h then g.S q else if a = q then g.S h else g.S a, h, q⟩)

/-- The generator after `n` calls. -/
def Gen.after : Nat → Gen → Gen
  | 0, g => g
  | n + 1, g => Gen.after n g.call.2

/-- `s[n]`, the byte the call number `n` returns, counting from 0 (R70). -/
def Gen.keystream (g : Gen) (n : Nat) : Byte := (g.after n).call.1

/-- The generator right after construction from a key: `i` and `j` start at 0 (R15, R16). -/
def Gen.ofKey (key : List Byte) : Gen := ⟨fun a => key.getD a.toNat 0, 0, 0⟩

namespace Machine

/-- The generator a state holds: `(S, i, j)` (R62). -/
def State.gen (s : State) : Gen := ⟨s.readS, s.i, s.j⟩

/-- The drawing commands of READY (R70). -/
def isDraw : Instr → Bool
  | .advance | .next | .crypt _ => true
  | .nop | .keyBegin | .keyByte _ | .keyEnd | .peek | .status | .rdS _ | .rdI | .rdJ | .rdKcnt | .clear => false

/-- What every step keeps. -/
structure Inv (s : State) : Prop where
  /-- the array's list is in canonical form -/
  memory : s.S.wf = true
  /-- in READY every entry of `S` has been written since the last reset (R29) -/
  readyWhole : s.mode = .ready → ∀ a, a < 256 → (s.S.read? a).isSome
  /-- in READY exactly 256 key bytes were counted (R54, R59) -/
  readyCount : s.mode = .ready → s.kcount.val = 256
  /-- in LOADING the entries already sent are written (R57) -/
  loadingPrefix : s.mode = .loading → ∀ a, a < 256 → a < s.kcount.val → (s.S.read? a).isSome
  /-- an outstanding error response is the one `err` records, and carries the data 0x00 (R91, R93) -/
  pending : ∀ r, s.rsp = some r → r.code ≠ .ok → s.err = r.code ∧ r.data = 0

end Machine

end Sys2Proof
end

