-- ==== Sys2Proof/Certificates/Slice0/Obligations.lean ====
section
/-! DEFINITION. The statements for the provers. Each docstring names the rule of spec/ it formalises. The few words below are
shared by the statements: they write out, as updates of the fields, what a command that answers and a command that fails
leave (so no statement leans on the model's own `respond` and `raiseError`). -/

namespace Sys2Proof.Machine

/-- `s` after a command that answers OK with data `d` and changes nothing else. -/
def answered (d : Byte) (s : State) : State := { s with rsp := some ⟨.ok, d⟩ }

/-- `s` after a command that fails with `c` and changes nothing else: `err` holds the code, the data is 0x00 (R93). -/
def failed (c : Code) (s : State) : State := { s with err := c, rsp := some ⟨c, 0⟩ }

/-- The model's own fields and the host's side of the port are as before. -/
def SameHostSide (s t : State) : Prop := t.cmd = s.cmd ∧ t.host = s.host ∧ t.draw = s.draw

/-- One GenStep from `s`, its byte drawn into `cur`, in R64's closed form; nothing else of the core changed, and the answer is
OK with `d`. Every entry of `S` is told: the two exchanged ones, and all others as before. -/
def DrawsAnswering (d : Byte) (s t : State) : Prop :=
  t.gen = s.gen.call.2 ∧ t.cur = s.gen.call.1 ∧ t.mode = s.mode ∧ t.kcount = s.kcount ∧ t.err = s.err ∧
    t.rsp = some ⟨.ok, d⟩ ∧ SameHostSide s t

/-- Of the 4096 words with opcode `op`, each one that `fits` refuses is answered ILLEGAL, in every mode, with nothing changed
but `err` (R48, R89, R93). -/
def RefusesUnless (op : BitVec 4) (fits : Word → Prop) : Prop :=
  ∀ (s : State) (w : Word), opField w = op → ¬ fits w →
    performWord w s = .next (failed .illegal s)

/-- In every mode but `m`, the command is answered BAD_STATE with nothing changed but `err` (R93, R94). -/
def OnlyIn (m : Mode) (i : Instr) : Prop :=
  ∀ s : State, s.mode ≠ m → exec i s = .next (failed .badState s)

end Sys2Proof.Machine

open Sys2Proof Sys2Proof.Machine

/-! ## Encoding -/

/-- R45, R46, R47: for every command, with every operand byte, decoding its encoding gives it back. -/
def Obligations.DecodeOfEncodeIsTheCommand : Prop :=
  ∀ i : Instr, decode (encode i) = .ok i

/-- R45 to R49: each word has one meaning: a word that decodes is the encoding of what it decodes to. -/
def Obligations.EncodeOfDecodeIsTheWord : Prop :=
  ∀ (w : Word) (i : Instr), decode w = .ok i → encode i = w

/-- R48: the decoder accepts exactly the words that R48's three clauses call legal. -/
def Obligations.DecoderAcceptsExactlyLegalWords : Prop :=
  ∀ w : Word, (∃ i, decode w = .ok i) ↔
    ((opField w).toNat ≤ 0xD ∧ rsvField w = 0 ∧
      ((opField w).toNat ∈ [0x2, 0x7, 0x9] ∨ dataField w = 0))

/-- R48: "Of the 65536 words, exactly 256 + 256 + 256 + 11 = 779 are legal." -/
def Obligations.ExactlyManyLegalWords : Prop :=
  (Finset.univ.filter (fun w : Word => Word.legal w = true)).card = 779

/-- spec/opcode_table.json: a word decodes exactly when it is a word of exactly one row of the table, and then to that row's
command. -/
def Obligations.DecodeFollowsOpcodeTable : Prop :=
  (∀ (w : Word) (i : Instr), decode w = .ok i →
    (opcodeTable.filter (fun r => r.accepts w)).map OpcodeRow.name = [mnemonic i]) ∧
  (∀ (w : Word) (e : DecodeError), decode w = .error e → opcodeTable.filter (fun r => r.accepts w) = [])

/-- R46, and the "Encoding" line of the command rules: words written out from the spec decode to their commands. -/
def Obligations.SpecWordsDecode : Prop :=
  decode 0x0000 = .ok .nop ∧ decode 0x1000 = .ok .keyBegin ∧ decode 0x2007 = .ok (.keyByte 0x07) ∧
    decode 0x3000 = .ok .keyEnd ∧ decode 0x7048 = .ok (.crypt 0x48) ∧ decode 0x9005 = .ok (.rdS 0x05) ∧
    decode 0xD000 = .ok .clear ∧ decode 0xE000 = .error .reservedOpcode ∧
    decode 0x0100 = .error .reservedBits ∧ decode 0x4001 = .error .operandNotZero

/-- R34: a byte-serial transport sends bits 15:8 first; what follows a command's two bytes is left for the next. -/
def Obligations.ByteSerialWordSendsHighByteFirst : Prop :=
  ∀ (w : Word) (rest : List Byte),
    bytesOfWord w = [BitVec.ofNat 8 (w.toNat / 256), BitVec.ofNat 8 (w.toNat % 256)] ∧
      decodeBytes (bytesOfWord w ++ rest) = (decode w).map (fun i => (i, rest))

/-- R51: reading the spelling of a word gives the word: a legal one by its mnemonic and operand, an illegal one as
`.word 0xHHHH`. -/
def Obligations.SpellingReadsBackAsTheWord : Prop :=
  ∀ w : Word, assembleLine (spellWord w) = some w

/-! ## The step and the port -/

/-- R89 (and the model's own placing of a word): with a legal word on the command port and no response outstanding, the step
is the command's meaning, the word gone from the port. `withFetchWord` places a word so, whatever the state. -/
def Obligations.StepPerformsTheDecodedCommand : Prop :=
  (∀ (s : State) (w : Word) (i : Instr), s.cmd = some w → s.rsp = none → decode w = .ok i →
    step s = exec i { s with cmd := none }) ∧
  (∀ (s : State) (i : Instr),
    step (s.withFetchWord 16 (encode i).toNat) = exec i { s with cmd := none, rsp := none })

/-- R89, R93: an accepted illegal word, in any mode, is answered (3, 0x00) and changes nothing but `err`. -/
def Obligations.IllegalWordChangesOnlyErr : Prop :=
  ∀ (s : State) (w : Word), s.cmd = some w → s.rsp = none → Word.legal w = false →
    step s = .next (failed .illegal { s with cmd := none })

/-- R91, R90, R114: every word offered with no response outstanding is answered, in that step, by exactly the code whose cause
R91 gives, ILLEGAL before BAD_STATE before INVALID_KEY_SIZE; an error's data is 0x00. -/
def Obligations.EachCodeHasExactlyItsCause : Prop :=
  ∀ (s : State) (w : Word), ∃ t r, step (offerWord w s) = .next t ∧ t.rsp = some r ∧ t.cmd = none ∧
    (r.code = .illegal ↔ Word.legal w = false) ∧
    (r.code = .badState ↔ ∃ i, decode w = .ok i ∧ allowed i s.mode = false) ∧
    (r.code = .invalidKeySize ↔ decode w = .ok .keyEnd ∧ s.mode = .loading ∧ s.kcount.val ≠ 256) ∧
    (r.code ≠ .ok → r.data = 0)

/-- R11, R21, R104: the core never steps by itself. A step that performs no command, because none is held on the port or because
a response is outstanding (R44), and that is no reset, changes no element of the core: only the host's move is made. A word is
put on a free port by the host alone, and stays there; a response stays until the host takes it. With no move pending nothing at
all changes (log entry 9), nor does taking a response that is not there change anything (log entry 10: DESIGN CHOICE). -/
def Obligations.OutstandingResponseBlocksTheNextCommand : Prop :=
  ∀ s t : State, (s.cmd = none ∨ s.rsp ≠ none) →
    (∀ rest, s.host ≠ .rst :: rest) → (∀ v rest, s.host ≠ .rstDuring v :: rest) → step s = .next t →
    t = { s with cmd := t.cmd, rsp := t.rsp, host := s.host.tail } ∧
      (t.cmd = s.cmd ∨ s.cmd = none ∧ ∃ v rest, s.host = .offer v :: rest ∧ t.cmd = some v) ∧
      (t.rsp = s.rsp ∨ t.rsp = none ∧ ∃ rest, s.host = .take :: rest) ∧
      (s.host = [] → t = s)

/-- R44, R39: at the port, a script that offers each word and takes each response carries out exactly the session of those
words, three steps a word, and leaves the host's later moves. -/
def Obligations.PortScriptCarriesOutTheSession : Prop :=
  ∀ (ws : List Word) (s : State) (rest : List HostMove), s.cmd = none → s.rsp = none →
    ∃ rs t, session ws s = some (rs, t) ∧ rs.length = ws.length ∧ t.cmd = none ∧ t.rsp = none ∧
      core.run (3 * ws.length) { s with host := hostScript ws ++ rest } = .next { t with host := rest }

/-- R115, U7: a step stops only where the host changes the word on the command port before it was accepted. -/
def Obligations.StepStopsOnlyForAHostThatChangesItsWord : Prop :=
  ∀ s : State, (∃ t, step s = .next t) ∨
    (step s = .fault .commandChanged ∧ ∃ w v rest, s.cmd = some w ∧ v ≠ w ∧
      (s.host = .offer v :: rest ∨ s.host = .rstDuring v :: rest))

/-! ## Reset -/

/-- R106, R28, R105: `rst` between commands puts every element at its reset value, returns no response, and draws `S` afresh.
That an untaken response is gone and that a held word stays is the model's choice (log entry 6). -/
def Obligations.ResetGivesEveryElementItsResetValue : Prop :=
  ∀ (s : State) (rest : List HostMove), (s.cmd = none ∨ s.rsp ≠ none) → s.host = .rst :: rest →
    ∃ t, step s = .next t ∧ t.mode = .idle ∧ t.kcount = 0 ∧ t.err = .ok ∧ t.i = 0 ∧ t.j = 0 ∧ t.cur = 0 ∧
      (∀ a, t.readS a = Config.powerOnByte (s.draw + 1) a) ∧ t.rsp = none ∧ t.cmd = s.cmd ∧ t.host = rest

/-- R107: if `rst` is asserted while a command is performed, the command has no effect and no response, and the core ends in
the state that `rst` alone gives. (A command can be in progress only with no response outstanding, R44; the move made in the other
states is the next statement's.) -/
def Obligations.ResetDuringACommandCancelsIt : Prop :=
  ∀ (s : State) (w : Word) (rest : List HostMove), s.cmd = none → s.rsp = none →
    step { s with host := .rstDuring w :: rest } = step { s with host := .rst :: rest } ∧
    ∃ t, step { s with host := .rstDuring w :: rest } = .next t ∧ t.rsp = none ∧ t.cmd = none ∧ t.mode = .idle ∧
      t.kcount = 0 ∧ t.err = .ok ∧ t.i = 0 ∧ t.j = 0 ∧ t.cur = 0 ∧ (∀ a, t.readS a = Config.powerOnByte (s.draw + 1) a)

/-- The model's choice (log entry 18: DESIGN CHOICE): the host's move `rstDuring w` made while a response is outstanding, when no
command can be in progress (R44), with the port free or `w` held on it, is a reset to R106's values that withdraws the word. -/
def Obligations.ResetDuringMoveBehindAResponseWithdrawsTheWord : Prop :=
  ∀ (s : State) (w : Word) (rest : List HostMove), s.rsp ≠ none → (s.cmd = none ∨ s.cmd = some w) →
    step { s with host := .rstDuring w :: rest } = step { s with cmd := none, host := .rst :: rest } ∧
    ∃ t, step { s with host := .rstDuring w :: rest } = .next t ∧ t.rsp = none ∧ t.cmd = none ∧ t.host = rest ∧
      t.mode = .idle ∧ t.kcount = 0 ∧ t.err = .ok ∧ t.i = 0 ∧ t.j = 0 ∧ t.cur = 0 ∧
      (∀ a, t.readS a = Config.powerOnByte (s.draw + 1) a)

/-- R110: after reset NOP, KEY_BEGIN, STATUS, RD_KCNT and CLEAR answer OK, STATUS and RD_KCNT with 0x00, and every other command
answers BAD_STATE. -/
def Obligations.CommandsThatWorkAfterReset : Prop :=
  ∀ i : Instr, ∃ t, exec i State.reset = .next t ∧
    t.rsp = some (if i ∈ [.nop, .keyBegin, .status, .rdKcnt, .clear] then ⟨.ok, 0⟩ else ⟨.badState, 0⟩)

/-! ## The command rules -/

/-- R82: NOP. -/
def Obligations.NopDoesNothing : Prop :=
  decode 0x0000 = .ok .nop ∧ RefusesUnless 0x0 (fun w => w = 0x0000) ∧
    ∀ s : State, exec .nop s = .next (answered 0 s)

/-- R56: KEY_BEGIN. -/
def Obligations.KeyBeginOpensALoad : Prop :=
  decode 0x1000 = .ok .keyBegin ∧ RefusesUnless 0x1 (fun w => w = 0x1000) ∧
    ∀ s : State, exec .keyBegin s = .next (answered 0 { s with mode := .loading, kcount := 0, err := .ok })

/-- R57: KEY_BYTE `d`: below 256 bytes it writes entry `kcount` and no other and counts one; from 256 on it writes nothing and
the count saturates at 257. -/
def Obligations.KeyByteStoresTheNextKeyByte : Prop :=
  (∀ d : Byte, decode (0x20#8 ++ d) = .ok (.keyByte d)) ∧
  RefusesUnless 0x2 (fun w => rsvField w = 0) ∧
  (∀ d, OnlyIn .loading (.keyByte d)) ∧
  ∀ (d : Byte) (s : State), s.mode = .loading →
    ∃ t, exec (.keyByte d) s = .next t ∧
      (s.kcount.val < 256 → t.kcount.val = s.kcount.val + 1 ∧
        ∀ a : Byte, t.readS a = if a.toNat = s.kcount.val then d else s.readS a) ∧
      (256 ≤ s.kcount.val → t.kcount.val = 257 ∧ ∀ a : Byte, t.readS a = s.readS a) ∧
      t.i = s.i ∧ t.j = s.j ∧ t.cur = s.cur ∧ t.mode = .loading ∧ t.err = s.err ∧ t.rsp = some ⟨.ok, 0⟩ ∧
      SameHostSide s t

/-- R59 (and R93 for its failure): KEY_END. With exactly 256 key bytes the generator starts at `i = j = 0` on the array as it
stands, one byte is drawn into `cur`, and READY follows; `kcount` and `err` stay. With any other count `mode` is IDLE and `err`
INVALID_KEY_SIZE, the response is (1, 0x00), and nothing else changed: no byte is drawn. -/
def Obligations.KeyEndChecksTheCountAndPrimes : Prop :=
  decode 0x3000 = .ok .keyEnd ∧ RefusesUnless 0x3 (fun w => w = 0x3000) ∧ OnlyIn .loading .keyEnd ∧
  (∀ s : State, s.mode = .loading → s.kcount.val = 256 →
    ∃ t, exec .keyEnd s = .next t ∧ t.gen = (Gen.call ⟨s.readS, 0, 0⟩).2 ∧ t.cur = (Gen.call ⟨s.readS, 0, 0⟩).1 ∧
      t.i = 1 ∧ t.j = s.readS 1 ∧ t.mode = .ready ∧ t.kcount = s.kcount ∧ t.err = s.err ∧ t.rsp = some ⟨.ok, 0⟩ ∧
      SameHostSide s t) ∧
  ∀ s : State, s.mode = .loading → s.kcount.val ≠ 256 →
    exec .keyEnd s = .next (failed .invalidKeySize { s with mode := .idle })

/-- R72: PEEK. -/
def Obligations.PeekReturnsTheCurrentByte : Prop :=
  decode 0x4000 = .ok .peek ∧ RefusesUnless 0x4 (fun w => w = 0x4000) ∧ OnlyIn .ready .peek ∧
    ∀ s : State, s.mode = .ready → exec .peek s = .next (answered s.cur s)

/-- R73: ADVANCE. -/
def Obligations.AdvanceDrawsTheNextByte : Prop :=
  decode 0x5000 = .ok .advance ∧ RefusesUnless 0x5 (fun w => w = 0x5000) ∧ OnlyIn .ready .advance ∧
    ∀ s : State, s.mode = .ready → ∃ t, exec .advance s = .next t ∧ DrawsAnswering 0 s t

/-- R74: NEXT answers the byte drawn before, and draws the following one. -/
def Obligations.NextReturnsThenDraws : Prop :=
  decode 0x6000 = .ok .next ∧ RefusesUnless 0x6 (fun w => w = 0x6000) ∧ OnlyIn .ready .next ∧
    ∀ s : State, s.mode = .ready → ∃ t, exec .next s = .next t ∧ DrawsAnswering s.cur s t

/-- R76: CRYPT `d` answers `d XOR cur` with the byte drawn before, and draws the following one; with `d = 0x00` it is NEXT, and
with `d = cur` the answer is 0x00. -/
def Obligations.CryptXorsThenDraws : Prop :=
  (∀ d : Byte, decode (0x70#8 ++ d) = .ok (.crypt d)) ∧ RefusesUnless 0x7 (fun w => rsvField w = 0) ∧
  (∀ d, OnlyIn .ready (.crypt d)) ∧
  (∀ (d : Byte) (s : State), s.mode = .ready →
    ∃ t, exec (.crypt d) s = .next t ∧ DrawsAnswering (d ^^^ s.cur) s t ∧ (d = s.cur → t.rsp = some ⟨.ok, 0⟩)) ∧
  ∀ s : State, exec (.crypt 0) s = exec .next s

/-- R83: STATUS answers `{0b0, (kcount == 257), (kcount >= 256), err[2:0], modecode[1:0]}` and changes nothing. -/
def Obligations.StatusAnswersTheView : Prop :=
  decode 0x8000 = .ok .status ∧ RefusesUnless 0x8 (fun w => w = 0x8000) ∧
    ∀ s : State, ∃ d : Byte, exec .status s = .next (answered d s) ∧
      d.toNat = (if s.kcount.val = 257 then 64 else 0) + (if 256 ≤ s.kcount.val then 32 else 0) +
        4 * (match s.err with | .ok => 0 | .invalidKeySize => 1 | .badState => 2 | .illegal => 3) +
        (match s.mode with | .idle => 0 | .loading => 1 | .ready => 2)

/-- R24: the fields of the status view, bit by bit, with R24's numerals; MODE is never 3, ERR never above 3, bit 7 always 0;
after reset the view is 0x00. -/
def Obligations.StatusViewFields : Prop :=
  (∀ s : State,
    ((statusByte s).extractLsb' 0 2).toNat = (match s.mode with | .idle => 0 | .loading => 1 | .ready => 2) ∧
    ((statusByte s).extractLsb' 2 3).toNat =
      (match s.err with | .ok => 0 | .invalidKeySize => 1 | .badState => 2 | .illegal => 3) ∧
    ((statusByte s).getLsbD 5 = true ↔ 256 ≤ s.kcount.val) ∧ ((statusByte s).getLsbD 6 = true ↔ s.kcount.val = 257) ∧
    (statusByte s).getLsbD 7 = false ∧
    ((statusByte s).extractLsb' 0 2).toNat ≠ 3 ∧ ((statusByte s).extractLsb' 2 3).toNat ≤ 3) ∧
  statusByte State.reset = 0

/-- R84: RD_KCNT answers `kcount[7:0]`: 256 reads as 0x00 and 257 as 0x01. -/
def Obligations.RdKcntAnswersTheLowByte : Prop :=
  decode 0xC000 = .ok .rdKcnt ∧ RefusesUnless 0xC (fun w => w = 0xC000) ∧
    ∀ s : State, ∃ d : Byte, exec .rdKcnt s = .next (answered d s) ∧ d.toNat = s.kcount.val % 256

/-- R85: RD_S `a`. -/
def Obligations.RdSAnswersTheEntry : Prop :=
  (∀ a : Byte, decode (0x90#8 ++ a) = .ok (.rdS a)) ∧ RefusesUnless 0x9 (fun w => rsvField w = 0) ∧
  (∀ a, OnlyIn .ready (.rdS a)) ∧
    ∀ (a : Byte) (s : State), s.mode = .ready → exec (.rdS a) s = .next (answered (s.readS a) s)

/-- R86: RD_I. -/
def Obligations.RdIAnswersThePositionCounter : Prop :=
  decode 0xA000 = .ok .rdI ∧ RefusesUnless 0xA (fun w => w = 0xA000) ∧ OnlyIn .ready .rdI ∧
    ∀ s : State, s.mode = .ready → exec .rdI s = .next (answered s.i s)

/-- R87: RD_J. -/
def Obligations.RdJAnswersTheAccumulator : Prop :=
  decode 0xB000 = .ok .rdJ ∧ RefusesUnless 0xB (fun w => w = 0xB000) ∧ OnlyIn .ready .rdJ ∧
    ∀ s : State, s.mode = .ready → exec .rdJ s = .next (answered s.j s)

/-- R88: CLEAR: every element but `S` at its reset value, so STATUS reads 0x00 after it; `S` is not changed. -/
def Obligations.ClearKeepsOnlyTheArray : Prop :=
  decode 0xD000 = .ok .clear ∧ RefusesUnless 0xD (fun w => w = 0xD000) ∧
    ∀ s : State, ∃ t, exec .clear s = .next t ∧ t.mode = .idle ∧ t.kcount = 0 ∧ t.err = .ok ∧ t.i = 0 ∧ t.j = 0 ∧
      t.cur = 0 ∧ t.S = s.S ∧ (∀ a : Byte, t.readS a = s.readS a) ∧ t.rsp = some ⟨.ok, 0⟩ ∧ SameHostSide s t ∧
      statusByte t = 0

/-! ## The generation step -/

/-- R64: GenStep in closed form, on every entry of the array, with everything GenStep does not write unchanged (R63). -/
def Obligations.GenStepHasTheClosedForm : Prop :=
  ∀ s : State,
    let h := s.i + 1
    let q := s.j + s.readS h
    let w := s.readS h + s.readS q
    let t := (genStep s).2
    (genStep s).1 = (if w = h then s.readS q else if w = q then s.readS h else s.readS w) ∧
    t.readS h = s.readS q ∧ t.readS q = s.readS h ∧ (∀ a : Byte, a ≠ h → a ≠ q → t.readS a = s.readS a) ∧
    (h = q → ∀ a : Byte, t.readS a = s.readS a) ∧
    t.i = h ∧ t.j = q ∧
    t = { s with S := t.S, i := t.i, j := t.j }

/-- R65: the sums of the step are of bytes, reduced modulo 256; the counter wraps from 255 to 0. -/
def Obligations.GenStepSumsAreModulo256 : Prop :=
  (∀ s : State, (genStep s).2.i.toNat = (s.i.toNat + 1) % 256 ∧
    (genStep s).2.j.toNat = (s.j.toNat + (s.readS (BitVec.ofNat 8 ((s.i.toNat + 1) % 256))).toNat) % 256) ∧
  (∀ s : State, s.i = 255 → (genStep s).2.i = 0) ∧
  (0xC8#8 : Byte) + 0x64 = 0x2C

/-- R25, Invariant A: KEY_END enters READY with the multiset of the key's bytes in `S`, and every step that starts and ends in
READY keeps the multiset of `S`. -/
def Obligations.ArrayStaysARearrangementOfTheKey : Prop :=
  (∀ (s : State) (key : List Byte), key.length = 256 →
    ∃ rs t, session (words (loadKey key)) s = some (rs, t) ∧ t.mode = .ready ∧ t.contents.Perm key) ∧
  (∀ s t : State, s.mode = .ready → step s = .next t → t.mode = .ready → t.contents.Perm s.contents)

/-- R67: every byte GenStep yields is a value of the array; after a load and any drawing commands `cur` is a byte of the key;
every keystream byte is one; and a key of 256 equal bytes `v` yields `v` forever. -/
def Obligations.EveryKeystreamByteIsAKeyByte : Prop :=
  (∀ s : State, (genStep s).1 ∈ s.contents) ∧
  (∀ (s : State) (key : List Byte) (ds : List Instr), key.length = 256 → (∀ i ∈ ds, isDraw i = true) →
    ∃ rs t, session (words (loadKey key ++ ds)) s = some (rs, t) ∧ t.cur ∈ key) ∧
  (∀ (key : List Byte) (n : Nat), key.length = 256 → (Gen.ofKey key).keystream n ∈ key) ∧
  (∀ (v : Byte) (n : Nat), (Gen.ofKey (List.replicate 256 v)).keystream n = v)

/-- R66: the byte GenStep yields and the state it leaves depend on `(S, i, j)` alone. So two cores, whatever their states,
loaded with the same key and given the same number of drawing commands hold the same `(S, i, j, cur)`; given the same drawing
commands they return the same responses. -/
def Obligations.SameKeyAndDrawsGiveTheSameGenerator : Prop :=
  (∀ s s' : State, (∀ a, s.readS a = s'.readS a) → s.i = s'.i → s.j = s'.j →
    (genStep s).1 = (genStep s').1 ∧ (genStep s).2.gen = (genStep s').2.gen) ∧
  ∀ (s s' : State) (key : List Byte) (ds ds' : List Instr), key.length = 256 → ds.length = ds'.length →
    (∀ i ∈ ds, isDraw i = true) → (∀ i ∈ ds', isDraw i = true) →
    ∃ rs t rs' t', session (words (loadKey key ++ ds)) s = some (rs, t) ∧
      session (words (loadKey key ++ ds')) s' = some (rs', t') ∧
      t.gen = t'.gen ∧ t.cur = t'.cur ∧ (ds = ds' → rs = rs')

/-! ## Construction, keystream and crypt -/

/-- R33: key byte number `k` of a load lands in `S[k]`. -/
def Obligations.KeyByteLandsAtItsOwnIndex : Prop :=
  ∀ (s : State) (key : List Byte), key.length ≤ 256 →
    ∃ rs t, session (words (sendKey key)) s = some (rs, t) ∧ (∀ r ∈ rs, r = ⟨.ok, 0⟩) ∧ t.mode = .loading ∧
      t.kcount.val = key.length ∧
      ∀ a : Byte, t.readS a = if a.toNat < key.length then key.getD a.toNat 0 else s.readS a

/-- R54: construction succeeds exactly when exactly 256 key bytes arrived; any other count fails with INVALID_KEY_SIZE at KEY_END,
leaves IDLE, and produces no output: no byte drawn and none returned. -/
def Obligations.ConstructionSucceedsExactlyOn256Bytes : Prop :=
  ∀ (s : State) (key : List Byte), ∃ rs r t, session (words (loadKey key)) s = some (rs ++ [r], t) ∧
    (∀ x ∈ rs, x = ⟨.ok, 0⟩) ∧
    (r.code = .ok ↔ key.length = 256) ∧ r.data = 0 ∧
    (key.length = 256 → t.mode = .ready ∧ t.err = .ok) ∧
    (key.length ≠ 256 → r.code = .invalidKeySize ∧ t.mode = .idle ∧ t.err = .invalidKeySize ∧
      t.kcount.val = min key.length 257 ∧ t.i = s.i ∧ t.j = s.j ∧ t.cur = s.cur)

/-- R60: after a successful KEY_END, `cur` is the first byte of the source's `next()` for the key, and `(S, i, j)` is the
source's state after one call. -/
def Obligations.AfterKeyEndTheFirstByteIsDrawn : Prop :=
  ∀ (s : State) (key : List Byte), key.length = 256 →
    ∃ rs t, session (words (loadKey key)) s = some (rs, t) ∧ t.mode = .ready ∧
      t.cur = (Gen.ofKey key).keystream 0 ∧ t.gen = (Gen.ofKey key).after 1

/-- R70: after KEY_END and `m` drawing commands, in any mix, `cur` is `s[m]`, `(S, i, j)` is the source's state after `m + 1`
calls, and `i` is `(m + 1) mod 256`. -/
def Obligations.KeystreamIsNumberedByDraws : Prop :=
  ∀ (s : State) (key : List Byte) (ds : List Instr), key.length = 256 → (∀ i ∈ ds, isDraw i = true) →
    ∃ rs t, session (words (loadKey key ++ ds)) s = some (rs, t) ∧ t.mode = .ready ∧
      t.cur = (Gen.ofKey key).keystream ds.length ∧ t.gen = (Gen.ofKey key).after (ds.length + 1) ∧
      t.i.toNat = (ds.length + 1) % 256

/-- R79: `keystream(key, N)`: the responses of the `N` NEXT commands after LOADKEY are `s[0], ..., s[N-1]`. -/
def Obligations.KeystreamRunReturnsTheFirstBytes : Prop :=
  ∀ (s : State) (key : List Byte) (n : Nat), key.length = 256 →
    ∃ rs t, session (words (loadKey key ++ keystreamCmds n)) s = some (rs, t) ∧
      rs.drop 258 = (List.range n).map (fun k => ⟨.ok, (Gen.ofKey key).keystream k⟩)

/-- R77: `crypt(input, key)`: the response to the `n`-th CRYPT after LOADKEY is `p[n] XOR s[n]`; with a key of the wrong length
KEY_END answers INVALID_KEY_SIZE, every CRYPT then fails with BAD_STATE, and no output byte is produced. -/
def Obligations.CryptRunXorsWithTheKeystream : Prop :=
  ∀ (s : State) (key ps : List Byte),
    ∃ rs t, session (words (loadKey key ++ cryptCmds ps)) s = some (rs, t) ∧
      (rs.drop (key.length + 2) =
        if key.length = 256 then ps.mapIdx (fun n p => ⟨.ok, p ^^^ (Gen.ofKey key).keystream n⟩)
        else ps.map (fun _ => ⟨.badState, 0⟩)) ∧
      (key.length ≠ 256 → rs[key.length + 1]? = some ⟨.invalidKeySize, 0⟩)

/-- R78: running crypt on the output of crypt with the same key, from whatever state the first run left, gives the input back. -/
def Obligations.CryptTwiceIsTheIdentity : Prop :=
  ∀ (s : State) (key ps : List Byte), key.length = 256 →
    ∃ rs t rs' t', session (words (loadKey key ++ cryptCmds ps)) s = some (rs, t) ∧
      session (words (loadKey key ++ cryptCmds ((rs.drop 258).map Response.data))) t = some (rs', t') ∧
      (rs'.drop 258).map Response.data = ps

/-! ## Rules of the whole machine -/

/-- The invariant holds after reset. -/
def Obligations.InvariantHoldsAtReset : Prop := Inv State.reset

/-- Every step keeps the invariant, from every state that meets it: the array's canonical form (R30), every entry written and
exactly 256 bytes counted in READY (R29, R54), the prefix sent in LOADING (R57), and an outstanding error recorded in `err`
with the data 0x00 (R91, R93). -/
def Obligations.EveryStepKeepsTheInvariant : Prop :=
  ∀ s t : State, Inv s → step s = .next t → Inv t

/-- R29, R106: the unspecified reset value of `S` never reaches a response: run from any state that meets the invariant, with
any other draw of the reset bytes, a step gives the same result up to the draw. -/
def Obligations.ResetBytesNeverReachAResponse : Prop :=
  ∀ (s : State) (n : Nat), Inv s →
    (∀ t, step s = .next t → ∃ m, step { s with draw := n } = .next { t with draw := m }) ∧
    (∀ f, step s = .fault f → step { s with draw := n } = .fault f)

/-- R94: the modes in which each command is legal. In a "no" cell of the table the command raises BAD_STATE and changes nothing but
`err`; in a "yes" cell it never answers BAD_STATE. -/
def Obligations.ModeTableDecidesBadState : Prop :=
  ∀ (i : Instr) (s : State),
    (match i with
      | .nop | .keyBegin | .status | .rdKcnt | .clear => True
      | .keyByte _ | .keyEnd => s.mode = .loading
      | .peek | .advance | .next | .crypt _ | .rdS _ | .rdI | .rdJ => s.mode = .ready) ∧
      (∃ t r, exec i s = .next t ∧ t.rsp = some r ∧ r.code ≠ .badState) ∨
    (match i with
      | .nop | .keyBegin | .status | .rdKcnt | .clear => False
      | .keyByte _ | .keyEnd => s.mode ≠ .loading
      | .peek | .advance | .next | .crypt _ | .rdS _ | .rdI | .rdJ => s.mode ≠ .ready) ∧
      exec i s = .next (failed .badState s)

/-- R95: in READY every drawing and reading command answers OK, and READY stays. -/
def Obligations.NoErrorAfterConstruction : Prop :=
  ∀ (i : Instr) (s : State), s.mode = .ready →
    (isDraw i = true ∨ i ∈ [.peek, .rdI, .rdJ] ∨ ∃ a, i = .rdS a) →
    ∃ t d, exec i s = .next t ∧ t.rsp = some ⟨.ok, d⟩ ∧ t.mode = .ready

/-- R93: whatever command fails, and an illegal word too, `err` holds the code and the response is (code, 0x00); `S`, `i`, `j`,
`cur` and `kcount` are unchanged, and `mode` too but for KEY_END's `mode <- IDLE` before INVALID_KEY_SIZE. -/
def Obligations.FailedCommandChangesOnlyErr : Prop :=
  (∀ (i : Instr) (s t : State) (r : Response), exec i s = .next t → t.rsp = some r → r.code ≠ .ok →
    r.data = 0 ∧ t = { s with err := r.code, rsp := some r, mode := t.mode } ∧
      (t.mode = s.mode ∨ i = .keyEnd ∧ r.code = .invalidKeySize ∧ t.mode = .idle)) ∧
  ∀ (w : Word) (s : State), Word.legal w = false → performWord w s = .next (failed .illegal s)

/-- R20, R98: a failing command overwrites `err` with its code; of the commands that succeed only KEY_BEGIN and CLEAR touch it,
and they clear it. -/
def Obligations.ErrHoldsTheLatestFailure : Prop :=
  ∀ (i : Instr) (s : State), ∃ t r, exec i s = .next t ∧ t.rsp = some r ∧
    t.err = (if r.code ≠ .ok then r.code else if i = .keyBegin ∨ i = .clear then .ok else s.err)

/-- R81, R36: NOP, STATUS, RD_KCNT, RD_S, RD_I, RD_J, and PEEK change no state when they succeed, and repeat with the same
result. -/
def Obligations.ObservationChangesNothing : Prop :=
  ∀ (i : Instr) (s t : State) (d : Byte),
    (i ∈ [.nop, .status, .rdKcnt, .rdI, .rdJ, .peek] ∨ ∃ a, i = .rdS a) →
    exec i s = .next t → t.rsp = some ⟨.ok, d⟩ → t = answered d s ∧ exec i t = .next t

/-- R22, R32: which commands write each element: no other command changes it. For `i`, `j` and `cur` CLEAR is among the writers by
R88 and R28, where R22's table leaves it out (log entry 11). -/
def Obligations.OnlyItsWritersChangeAnElement : Prop :=
  ∀ (i : Instr) (s t : State), exec i s = .next t →
    (t.i = s.i ∧ t.j = s.j ∧ t.cur = s.cur ∨ isDraw i = true ∨ i = .keyEnd ∨ i = .clear) ∧
    ((∀ a, t.readS a = s.readS a) ∨ isDraw i = true ∨ i = .keyEnd ∨ ∃ d, i = .keyByte d) ∧
    (t.mode = s.mode ∨ i = .keyBegin ∨ i = .keyEnd ∨ i = .clear) ∧
    (t.kcount = s.kcount ∨ i = .keyBegin ∨ i = .clear ∨ ∃ d, i = .keyByte d) ∧
    SameHostSide s t
end

