-- ==== Sys2Proof/Laws/Decode.lean ====
section
/-! SUPPORT. The fields of a word, and what the decoder's selection can answer. -/

namespace Sys2Proof

/-- A word is its three fields (R45). -/
theorem wordOfFields_fields (w : Word) : wordOfFields (opField w) (rsvField w) (dataField w) = w := by
  apply BitVec.eq_of_toNat_eq
  simp only [wordOfFields, opField, rsvField, dataField, BitVec.toNat_append, BitVec.extractLsb'_toNat,
    Nat.shiftRight_eq_div_pow, Nat.shiftLeft_eq]
  rw [← Nat.shiftLeft_eq, ← Nat.shiftLeft_eq, ← Nat.shiftLeft_add_eq_or_of_lt (by omega),
    ← Nat.shiftLeft_add_eq_or_of_lt (by omega), Nat.shiftLeft_eq, Nat.shiftLeft_eq]
  have := w.isLt
  omega

theorem opField_toNat (w : Word) : (opField w).toNat = w.toNat / 4096 := by
  simp only [opField, BitVec.extractLsb'_toNat, Nat.shiftRight_eq_div_pow]
  have := w.isLt
  omega

theorem rsvField_toNat (w : Word) : (rsvField w).toNat = w.toNat / 256 % 16 := by
  simp only [rsvField, BitVec.extractLsb'_toNat, Nat.shiftRight_eq_div_pow]

theorem dataField_toNat (w : Word) : (dataField w).toNat = w.toNat % 256 := by
  simp only [dataField, BitVec.extractLsb'_toNat, Nat.shiftRight_eq_div_pow]
  norm_num

theorem withoutOperand_ok {data : Byte} {i j : Instr} (h : withoutOperand data i = .ok j) : data = 0 ∧ i = j := by
  unfold withoutOperand at h
  split at h
  · rename_i hd
    exact ⟨hd, by cases h; rfl⟩
  · cases h

/-- The selection answers only commands whose opcode and operand are the fields it was given. -/
theorem selectCommand_ok {op : BitVec 4} {data : Byte} {i : Instr} (h : selectCommand op data = .ok i) :
    opcode i = op ∧ operand i = data := by
  have key : ∀ n : Nat, op.toNat = n → op = BitVec.ofNat 4 n := fun n hn => by
    rw [← hn, BitVec.ofNat_toNat, BitVec.setWidth_eq]
  unfold selectCommand at h
  split at h <;> first
    | cases h; done
    | (rename_i hn
       have hop := key _ hn
       first
         | (obtain ⟨hd, rfl⟩ := withoutOperand_ok h
            exact ⟨hop.symm, hd.symm⟩)
         | (cases h
            exact ⟨hop.symm, rfl⟩))

/-- What a decoded command says of its word: `op` and `data` are its opcode and operand, and `rsv` is zero. -/
theorem decode_ok {w : Word} {i : Instr} (h : decode w = .ok i) :
    opField w = opcode i ∧ rsvField w = 0 ∧ dataField w = operand i := by
  unfold decode at h
  split at h
  · cases h
  · split at h
    · cases h
    · rename_i _ hr
      obtain ⟨ho, hd⟩ := selectCommand_ok h
      exact ⟨ho.symm, not_not.mp hr, hd.symm⟩

end Sys2Proof
end

