-- ==== Sys2Proof/Laws/State.lean ====
section
/-! SUPPORT. One lemma per field per update: what each shared operation leaves in each field of the state, true by
unfolding the operation once. -/

namespace Sys2Proof.Machine

/-! ### respond -/

@[simp] theorem respond_S (c : Code) (d : Byte) (s : State) : (respond c d s).S = s.S := rfl
@[simp] theorem respond_i (c : Code) (d : Byte) (s : State) : (respond c d s).i = s.i := rfl
@[simp] theorem respond_j (c : Code) (d : Byte) (s : State) : (respond c d s).j = s.j := rfl
@[simp] theorem respond_cur (c : Code) (d : Byte) (s : State) : (respond c d s).cur = s.cur := rfl
@[simp] theorem respond_mode (c : Code) (d : Byte) (s : State) : (respond c d s).mode = s.mode := rfl
@[simp] theorem respond_kcount (c : Code) (d : Byte) (s : State) : (respond c d s).kcount = s.kcount := rfl
@[simp] theorem respond_err (c : Code) (d : Byte) (s : State) : (respond c d s).err = s.err := rfl
@[simp] theorem respond_cmd (c : Code) (d : Byte) (s : State) : (respond c d s).cmd = s.cmd := rfl
@[simp] theorem respond_rsp (c : Code) (d : Byte) (s : State) : (respond c d s).rsp = some ⟨c, d⟩ := rfl
@[simp] theorem respond_host (c : Code) (d : Byte) (s : State) : (respond c d s).host = s.host := rfl
@[simp] theorem respond_draw (c : Code) (d : Byte) (s : State) : (respond c d s).draw = s.draw := rfl

/-! ### raiseError -/

@[simp] theorem raiseError_S (e : Code) (s : State) : (raiseError e s).S = s.S := rfl
@[simp] theorem raiseError_i (e : Code) (s : State) : (raiseError e s).i = s.i := rfl
@[simp] theorem raiseError_j (e : Code) (s : State) : (raiseError e s).j = s.j := rfl
@[simp] theorem raiseError_cur (e : Code) (s : State) : (raiseError e s).cur = s.cur := rfl
@[simp] theorem raiseError_mode (e : Code) (s : State) : (raiseError e s).mode = s.mode := rfl
@[simp] theorem raiseError_kcount (e : Code) (s : State) : (raiseError e s).kcount = s.kcount := rfl
@[simp] theorem raiseError_err (e : Code) (s : State) : (raiseError e s).err = e := rfl
@[simp] theorem raiseError_cmd (e : Code) (s : State) : (raiseError e s).cmd = s.cmd := rfl
@[simp] theorem raiseError_rsp (e : Code) (s : State) : (raiseError e s).rsp = some ⟨e, 0⟩ := rfl
@[simp] theorem raiseError_host (e : Code) (s : State) : (raiseError e s).host = s.host := rfl
@[simp] theorem raiseError_draw (e : Code) (s : State) : (raiseError e s).draw = s.draw := rfl

/-! ### writeS -/

@[simp] theorem writeS_S (s : State) (a v : Byte) : (s.writeS a v).S = s.S.write a.toNat v := rfl
@[simp] theorem writeS_i (s : State) (a v : Byte) : (s.writeS a v).i = s.i := rfl
@[simp] theorem writeS_j (s : State) (a v : Byte) : (s.writeS a v).j = s.j := rfl
@[simp] theorem writeS_cur (s : State) (a v : Byte) : (s.writeS a v).cur = s.cur := rfl
@[simp] theorem writeS_mode (s : State) (a v : Byte) : (s.writeS a v).mode = s.mode := rfl
@[simp] theorem writeS_kcount (s : State) (a v : Byte) : (s.writeS a v).kcount = s.kcount := rfl
@[simp] theorem writeS_err (s : State) (a v : Byte) : (s.writeS a v).err = s.err := rfl
@[simp] theorem writeS_cmd (s : State) (a v : Byte) : (s.writeS a v).cmd = s.cmd := rfl
@[simp] theorem writeS_rsp (s : State) (a v : Byte) : (s.writeS a v).rsp = s.rsp := rfl
@[simp] theorem writeS_host (s : State) (a v : Byte) : (s.writeS a v).host = s.host := rfl
@[simp] theorem writeS_draw (s : State) (a v : Byte) : (s.writeS a v).draw = s.draw := rfl

/-! ### powerOn -/

@[simp] theorem powerOn_S (s : State) : (powerOn s).S = [] := rfl
@[simp] theorem powerOn_i (s : State) : (powerOn s).i = 0 := rfl
@[simp] theorem powerOn_j (s : State) : (powerOn s).j = 0 := rfl
@[simp] theorem powerOn_cur (s : State) : (powerOn s).cur = 0 := rfl
@[simp] theorem powerOn_mode (s : State) : (powerOn s).mode = .idle := rfl
@[simp] theorem powerOn_kcount (s : State) : (powerOn s).kcount = 0 := rfl
@[simp] theorem powerOn_err (s : State) : (powerOn s).err = .ok := rfl
@[simp] theorem powerOn_cmd (s : State) : (powerOn s).cmd = s.cmd := rfl
@[simp] theorem powerOn_rsp (s : State) : (powerOn s).rsp = none := rfl
@[simp] theorem powerOn_host (s : State) : (powerOn s).host = s.host := rfl
@[simp] theorem powerOn_draw (s : State) : (powerOn s).draw = s.draw + 1 := rfl

/-! ### offerWord -/

@[simp] theorem offerWord_S (w : Word) (s : State) : (offerWord w s).S = s.S := rfl
@[simp] theorem offerWord_i (w : Word) (s : State) : (offerWord w s).i = s.i := rfl
@[simp] theorem offerWord_j (w : Word) (s : State) : (offerWord w s).j = s.j := rfl
@[simp] theorem offerWord_cur (w : Word) (s : State) : (offerWord w s).cur = s.cur := rfl
@[simp] theorem offerWord_mode (w : Word) (s : State) : (offerWord w s).mode = s.mode := rfl
@[simp] theorem offerWord_kcount (w : Word) (s : State) : (offerWord w s).kcount = s.kcount := rfl
@[simp] theorem offerWord_err (w : Word) (s : State) : (offerWord w s).err = s.err := rfl
@[simp] theorem offerWord_cmd (w : Word) (s : State) : (offerWord w s).cmd = some w := rfl
@[simp] theorem offerWord_rsp (w : Word) (s : State) : (offerWord w s).rsp = none := rfl
@[simp] theorem offerWord_host (w : Word) (s : State) : (offerWord w s).host = s.host := rfl
@[simp] theorem offerWord_draw (w : Word) (s : State) : (offerWord w s).draw = s.draw := rfl

/-! ### swapS -/

@[simp] theorem swapS_i (h q : Byte) (s : State) : (swapS h q s).i = s.i := rfl
@[simp] theorem swapS_j (h q : Byte) (s : State) : (swapS h q s).j = s.j := rfl
@[simp] theorem swapS_cur (h q : Byte) (s : State) : (swapS h q s).cur = s.cur := rfl
@[simp] theorem swapS_mode (h q : Byte) (s : State) : (swapS h q s).mode = s.mode := rfl
@[simp] theorem swapS_kcount (h q : Byte) (s : State) : (swapS h q s).kcount = s.kcount := rfl
@[simp] theorem swapS_err (h q : Byte) (s : State) : (swapS h q s).err = s.err := rfl
@[simp] theorem swapS_cmd (h q : Byte) (s : State) : (swapS h q s).cmd = s.cmd := rfl
@[simp] theorem swapS_rsp (h q : Byte) (s : State) : (swapS h q s).rsp = s.rsp := rfl
@[simp] theorem swapS_host (h q : Byte) (s : State) : (swapS h q s).host = s.host := rfl
@[simp] theorem swapS_draw (h q : Byte) (s : State) : (swapS h q s).draw = s.draw := rfl

/-! ### genStep -/

@[simp] theorem genStep_i (s : State) : (genStep s).2.i = s.i + 1 := rfl
@[simp] theorem genStep_j (s : State) : (genStep s).2.j = s.j + s.readS (s.i + 1) := rfl
@[simp] theorem genStep_cur (s : State) : (genStep s).2.cur = s.cur := rfl
@[simp] theorem genStep_mode (s : State) : (genStep s).2.mode = s.mode := rfl
@[simp] theorem genStep_kcount (s : State) : (genStep s).2.kcount = s.kcount := rfl
@[simp] theorem genStep_err (s : State) : (genStep s).2.err = s.err := rfl
@[simp] theorem genStep_cmd (s : State) : (genStep s).2.cmd = s.cmd := rfl
@[simp] theorem genStep_rsp (s : State) : (genStep s).2.rsp = s.rsp := rfl
@[simp] theorem genStep_host (s : State) : (genStep s).2.host = s.host := rfl
@[simp] theorem genStep_draw (s : State) : (genStep s).2.draw = s.draw := rfl

/-! ### drawCur -/

@[simp] theorem drawCur_S (s : State) : (drawCur s).S = (genStep s).2.S := rfl
@[simp] theorem drawCur_i (s : State) : (drawCur s).i = s.i + 1 := rfl
@[simp] theorem drawCur_j (s : State) : (drawCur s).j = s.j + s.readS (s.i + 1) := rfl
@[simp] theorem drawCur_cur (s : State) : (drawCur s).cur = (genStep s).1 := rfl
@[simp] theorem drawCur_mode (s : State) : (drawCur s).mode = s.mode := rfl
@[simp] theorem drawCur_kcount (s : State) : (drawCur s).kcount = s.kcount := rfl
@[simp] theorem drawCur_err (s : State) : (drawCur s).err = s.err := rfl
@[simp] theorem drawCur_cmd (s : State) : (drawCur s).cmd = s.cmd := rfl
@[simp] theorem drawCur_rsp (s : State) : (drawCur s).rsp = s.rsp := rfl
@[simp] theorem drawCur_host (s : State) : (drawCur s).host = s.host := rfl
@[simp] theorem drawCur_draw (s : State) : (drawCur s).draw = s.draw := rfl

/-! ### Reading the array through an update that does not touch it -/

/-- `S[a]` depends on the array and the draw only. -/
theorem readS_congr {s t : State} (hS : t.S = s.S) (hd : t.draw = s.draw) (a : Byte) : t.readS a = s.readS a := by
  simp only [State.readS, hS, hd]

@[simp] theorem respond_readS (c : Code) (d : Byte) (s : State) (a : Byte) : (respond c d s).readS a = s.readS a := rfl
@[simp] theorem raiseError_readS (e : Code) (s : State) (a : Byte) : (raiseError e s).readS a = s.readS a := rfl
@[simp] theorem offerWord_readS (w : Word) (s : State) (a : Byte) : (offerWord w s).readS a = s.readS a := rfl
@[simp] theorem drawCur_readS (s : State) (a : Byte) : (drawCur s).readS a = (genStep s).2.readS a := rfl
@[simp] theorem powerOn_readS (s : State) (a : Byte) : (powerOn s).readS a = Config.powerOnByte (s.draw + 1) a := rfl

end Sys2Proof.Machine
end

