-- ==== Sys2Proof/Laws/Memory.lean ====
section
/-! SUPPORT. The array `S`: read after write, and that every write keeps the canonical form. -/

namespace Sys2Proof.Machine

theorem Memory.read?_write_self (m : Memory) (a : Nat) (v : Byte) : (m.write a v).read? a = some v := by
  induction m with
  | nil => simp [Memory.write, Memory.read?]
  | cons p m ih =>
    obtain ⟨b, u⟩ := p
    simp only [Memory.write]
    split
    · simp [Memory.read?]
    · split
      · simp [Memory.read?]
      · have hne : b ≠ a := by omega
        simpa [Memory.read?, hne] using ih

theorem Memory.read?_write_ne (m : Memory) {a c : Nat} (v : Byte) (hc : c ≠ a) :
    (m.write a v).read? c = m.read? c := by
  induction m with
  | nil => simp [Memory.write, Memory.read?, Ne.symm hc]
  | cons p m ih =>
    obtain ⟨b, u⟩ := p
    simp only [Memory.write]
    split
    · simp [Memory.read?, Ne.symm hc]
    · split
      · rename_i hab
        subst hab
        simp [Memory.read?, Ne.symm hc]
      · simp only [Memory.read?, ih]

/-- What any index reads as after one write. -/
theorem Memory.read?_write (m : Memory) (a c : Nat) (v : Byte) :
    (m.write a v).read? c = if c = a then some v else m.read? c := by
  split
  · rename_i h
    rw [h, Memory.read?_write_self]
  · rename_i h
    rw [Memory.read?_write_ne m v h]

/-- A listed index stays listed. -/
theorem Memory.isSome_write {m : Memory} {a c : Nat} {v : Byte} (h : (m.read? c).isSome) :
    ((m.write a v).read? c).isSome := by
  rw [Memory.read?_write]
  split <;> simp [h]

theorem Memory.wfFrom_write {m : Memory} {lo a : Nat} (v : Byte) (hlo : lo ≤ a) (ha : a < 256)
    (h : Memory.wfFrom lo m = true) : Memory.wfFrom lo (m.write a v) = true := by
  induction m generalizing lo with
  | nil => simp [Memory.write, Memory.wfFrom, hlo, ha]
  | cons p m ih =>
    obtain ⟨b, u⟩ := p
    simp only [Memory.wfFrom, Bool.and_eq_true, decide_eq_true_eq] at h
    obtain ⟨⟨hb, hb'⟩, hm⟩ := h
    simp only [Memory.write]
    split
    · simp only [Memory.wfFrom, Bool.and_eq_true, decide_eq_true_eq]
      exact ⟨⟨hlo, ha⟩, ⟨by omega, hb'⟩, hm⟩
    · split
      · rename_i hab
        subst hab
        simp only [Memory.wfFrom, Bool.and_eq_true, decide_eq_true_eq]
        exact ⟨⟨hlo, ha⟩, hm⟩
      · simp only [Memory.wfFrom, Bool.and_eq_true, decide_eq_true_eq]
        exact ⟨⟨hb, hb'⟩, ih (by omega) hm⟩

/-- Writing keeps the canonical form. -/
theorem Memory.wf_write {m : Memory} {a : Nat} (v : Byte) (ha : a < 256) (h : m.wf = true) :
    (m.write a v).wf = true :=
  Memory.wfFrom_write v (Nat.zero_le a) ha h

@[simp] theorem Memory.read?_nil (a : Nat) : Memory.read? [] a = none := rfl
@[simp] theorem Memory.wf_nil : Memory.wf [] = true := rfl

/-- `S[a] <- v` keeps the canonical form. -/
theorem writeS_wf {s : State} (a v : Byte) (h : s.S.wf = true) : (s.writeS a v).S.wf = true :=
  Memory.wf_write v a.isLt h

/-- `S[c]` after `S[a] <- v`. -/
@[simp] theorem readS_writeS (s : State) (a v c : Byte) :
    (s.writeS a v).readS c = if c = a then v else s.readS c := by
  simp only [State.readS, writeS_S, writeS_draw, Memory.read?_write]
  by_cases h : c = a
  · simp [h]
  · have h' : c.toNat ≠ a.toNat := fun e => h (BitVec.eq_of_toNat_eq e)
    simp [h, h']

end Sys2Proof.Machine
end

