-- ==== Sys2Proof/Laws/Ops.lean ====
section
/-! SUPPORT. One spec lemma per shared operation over the array and the port: what it leaves, said once. -/

namespace Sys2Proof.Machine

/-! ## The swap of GenStep -/

/-- Step 3 of R63 exchanges the two entries and leaves every other; when `h = q` it leaves all. -/
@[simp] theorem readS_swapS (h q : Byte) (s : State) (a : Byte) :
    (swapS h q s).readS a = if a = h then s.readS q else if a = q then s.readS h else s.readS a := by
  simp only [swapS, readS_writeS]
  by_cases hq : a = q
  · by_cases hh : a = h
    · subst hq hh
      simp
    · simp [hq]
      intro hqh
      exact absurd (hq.trans hqh) hh
  · simp [hq]

theorem swapS_wf {s : State} (h q : Byte) (hs : s.S.wf = true) : (swapS h q s).S.wf = true :=
  writeS_wf _ _ (writeS_wf _ _ hs)

theorem swapS_isSome {s : State} (h q : Byte) {a : Nat} (hs : (s.S.read? a).isSome) :
    ((swapS h q s).S.read? a).isSome :=
  Memory.isSome_write (Memory.isSome_write hs)

/-! ## GenStep -/

theorem genStep_S (s : State) :
    (genStep s).2.S = (swapS (s.i + 1) (s.j + s.readS (s.i + 1)) s).S := rfl

/-- The array after GenStep is the swapped one. -/
theorem genStep_readS (s : State) (a : Byte) :
    (genStep s).2.readS a = (swapS (s.i + 1) (s.j + s.readS (s.i + 1)) s).readS a := rfl

/-- The byte GenStep yields is read from the swapped array, at the sum of the two swapped entries. -/
theorem genStep_out (s : State) :
    (genStep s).1 = (genStep s).2.readS
      ((genStep s).2.readS (s.i + 1) + (genStep s).2.readS (s.j + s.readS (s.i + 1))) := rfl

theorem genStep_wf {s : State} (hs : s.S.wf = true) : (genStep s).2.S.wf = true := by
  rw [genStep_S]
  exact swapS_wf _ _ hs

theorem genStep_isSome {s : State} {a : Nat} (hs : (s.S.read? a).isSome) :
    ((genStep s).2.S.read? a).isSome := by
  rw [genStep_S]
  exact swapS_isSome _ _ hs

/-! ## The key-byte count -/

theorem countKeyByte_val (k : KeyCount) : (countKeyByte k).val = if k.val < 256 then k.val + 1 else 257 := by
  simp only [countKeyByte, Fin.ofNat]
  split
  · exact Nat.mod_eq_of_lt (by omega)
  · rfl

theorem keyEntry_toNat {k : KeyCount} (h : k.val < 256) : (keyEntry k).toNat = k.val := by
  simp only [keyEntry, BitVec.toNat_ofNat]
  exact Nat.mod_eq_of_lt h

/-! ## The port -/

/-- A word on the command port with no response outstanding is what the step performs. -/
theorem step_of_cmd {s : State} {w : Word} (hc : s.cmd = some w) (hr : s.rsp = none) :
    step s = performWord w { s with cmd := none } := by
  simp only [step, portStep, hc, hr]

theorem step_offerWord (w : Word) (s : State) :
    step (offerWord w s) = performWord w { s with cmd := none, rsp := none } :=
  step_of_cmd rfl rfl

/-- With a response outstanding, or nothing on the command port, the step is the host's. -/
theorem step_of_host {s : State} (h : s.cmd = none ∨ s.rsp ≠ none) : step s = hostStep s := by
  simp only [step, portStep]
  split
  · rename_i w hc hr
    simp [hc, hr] at h
  · rfl

/-- The two kinds of step. -/
theorem step_cases (s : State) :
    (∃ w, s.cmd = some w ∧ s.rsp = none ∧ step s = performWord w { s with cmd := none }) ∨
      ((s.cmd = none ∨ s.rsp ≠ none) ∧ step s = hostStep s) := by
  cases hc : s.cmd with
  | none => exact .inr ⟨.inl rfl, step_of_host (.inl hc)⟩
  | some w =>
    cases hr : s.rsp with
    | none => exact .inl ⟨w, rfl, rfl, step_of_cmd hc hr⟩
    | some r => exact .inr ⟨.inr (by simp), step_of_host (.inr (by simp [hr]))⟩

theorem performWord_error {w : Word} {e : DecodeError} (h : decode w = .error e) (s : State) :
    performWord w s = .next (raiseError .illegal s) := by
  simp only [performWord, h]

theorem performWord_ok {w : Word} {i : Instr} (h : decode w = .ok i) (s : State) : performWord w s = exec i s := by
  simp only [performWord, h]

/-- Everything the host's move can leave (Machine/Port.lean, `hostStep`), by the move. -/
theorem hostStep_cases {s t : State} (h : hostStep s = .next t) :
    (s.host = [] ∧ t = s) ∨
      (∃ w rest, s.host = .offer w :: rest ∧ portFree w s = true ∧ t = { s with cmd := some w, host := rest }) ∨
      (∃ rest, s.host = .take :: rest ∧ t = { s with rsp := none, host := rest }) ∨
      (∃ rest, s.host = .rst :: rest ∧ t = powerOn { s with host := rest }) ∨
      (∃ w rest, s.host = .rstDuring w :: rest ∧ portFree w s = true ∧
        t = powerOn { s with cmd := none, host := rest }) := by
  unfold hostStep at h
  split at h
  · rename_i hh
    exact .inl ⟨hh, by cases h; rfl⟩
  · rename_i w rest hh
    split at h
    · rename_i hp
      exact .inr (.inl ⟨w, rest, hh, hp, by cases h; rfl⟩)
    · cases h
  · rename_i rest hh
    exact .inr (.inr (.inl ⟨rest, hh, by cases h; rfl⟩))
  · rename_i rest hh
    exact .inr (.inr (.inr (.inl ⟨rest, hh, by cases h; rfl⟩)))
  · rename_i w rest hh
    split at h
    · rename_i hp
      exact .inr (.inr (.inr (.inr ⟨w, rest, hh, hp, by cases h; rfl⟩)))
    · cases h

end Sys2Proof.Machine
end

