-- ==== Sys2Proof/Laws/Exec.lean ====
section
/-! SUPPORT. What each command's meaning answers, by the mode and count it looks at; later proofs cite these and do not
unfold a meaning. -/

namespace Sys2Proof.Machine

/-! ## A command in a mode it is not legal in -/

/-- R94: in a mode its table row does not allow, a command raises BAD_STATE. -/
theorem exec_not_allowed {i : Instr} {s : State} (h : allowed i s.mode = false) :
    exec i s = .next (raiseError .badState s) := by
  cases i <;> simp only [allowed, beq_eq_false_iff_ne, reduceCtorEq] at h <;>
    simp only [exec, execKeyByte, execKeyEnd, execPeek, execAdvance, execNext, execCrypt, execRdS, execRdI, execRdJ] <;>
    exact if_pos h

/-! ## Commands legal in every mode -/

theorem exec_nop (s : State) : exec .nop s = .next (respond .ok 0 s) := rfl
theorem exec_keyBegin (s : State) :
    exec .keyBegin s = .next (respond .ok 0 { s with mode := .loading, kcount := 0, err := .ok }) := rfl
theorem exec_status (s : State) : exec .status s = .next (respond .ok (statusByte s) s) := rfl
theorem exec_rdKcnt (s : State) : exec .rdKcnt s = .next (respond .ok (kcountLow s.kcount) s) := rfl
theorem exec_clear (s : State) :
    exec .clear s =
      .next (respond .ok 0 { s with mode := .idle, kcount := 0, err := .ok, i := 0, j := 0, cur := 0 }) := rfl

/-! ## LOADING -/

theorem exec_keyByte_store {s : State} (hm : s.mode = .loading) (hk : s.kcount.val < 256) (d : Byte) :
    exec (.keyByte d) s =
      .next (respond .ok 0 { s.writeS (keyEntry s.kcount) d with kcount := countKeyByte s.kcount }) := by
  simp only [exec, execKeyByte]
  rw [if_neg (not_not.mpr hm), if_pos hk]

theorem exec_keyByte_drop {s : State} (hm : s.mode = .loading) (hk : ¬ s.kcount.val < 256) (d : Byte) :
    exec (.keyByte d) s = .next (respond .ok 0 { s with kcount := countKeyByte s.kcount }) := by
  simp only [exec, execKeyByte]
  rw [if_neg (not_not.mpr hm), if_neg hk]

theorem exec_keyEnd_prime {s : State} (hm : s.mode = .loading) (hk : s.kcount.val = 256) :
    exec .keyEnd s = .next (respond .ok 0 { drawCur { s with i := 0, j := 0 } with mode := .ready }) := by
  simp only [exec, execKeyEnd]
  rw [if_neg (not_not.mpr hm), if_neg (not_not.mpr hk)]

theorem exec_keyEnd_count {s : State} (hm : s.mode = .loading) (hk : s.kcount.val ≠ 256) :
    exec .keyEnd s = .next (raiseError .invalidKeySize { s with mode := .idle }) := by
  simp only [exec, execKeyEnd]
  rw [if_neg (not_not.mpr hm), if_pos hk]

/-! ## READY -/

theorem exec_peek {s : State} (hm : s.mode = .ready) : exec .peek s = .next (respond .ok s.cur s) :=
  if_neg (not_not.mpr hm)
theorem exec_advance {s : State} (hm : s.mode = .ready) : exec .advance s = .next (respond .ok 0 (drawCur s)) :=
  if_neg (not_not.mpr hm)
theorem exec_next {s : State} (hm : s.mode = .ready) : exec .next s = .next (respond .ok s.cur (drawCur s)) :=
  if_neg (not_not.mpr hm)
theorem exec_crypt {s : State} (hm : s.mode = .ready) (d : Byte) :
    exec (.crypt d) s = .next (respond .ok (d ^^^ s.cur) (drawCur s)) :=
  if_neg (not_not.mpr hm)
theorem exec_rdS {s : State} (hm : s.mode = .ready) (a : Byte) :
    exec (.rdS a) s = .next (respond .ok (s.readS a) s) :=
  if_neg (not_not.mpr hm)
theorem exec_rdI {s : State} (hm : s.mode = .ready) : exec .rdI s = .next (respond .ok s.i s) :=
  if_neg (not_not.mpr hm)
theorem exec_rdJ {s : State} (hm : s.mode = .ready) : exec .rdJ s = .next (respond .ok s.j s) :=
  if_neg (not_not.mpr hm)

/-! ## All commands at once -/

/-- NOP and the commands that only read. -/
def isObserver : Instr → Bool
  | .nop | .peek | .status | .rdS _ | .rdI | .rdJ | .rdKcnt => true
  | .keyBegin | .keyByte _ | .keyEnd | .advance | .next | .crypt _ | .clear => false

/-- The data byte a command answers where it succeeds, from the state it starts in. -/
def answer : Instr → State → Byte
  | .peek, s | .next, s => s.cur
  | .crypt d, s => d ^^^ s.cur
  | .status, s => statusByte s
  | .rdS a, s => s.readS a
  | .rdI, s => s.i
  | .rdJ, s => s.j
  | .rdKcnt, s => kcountLow s.kcount
  | .nop, _ | .keyBegin, _ | .keyByte _, _ | .keyEnd, _ | .advance, _ | .clear, _ => 0

/-- The ways a command ends: refused by its mode, refused by KEY_END's count, or answered OK over one of the changes the
command rules make. -/
inductive Performs (s : State) : Instr → State → Prop
  | wrongMode {i : Instr} (h : allowed i s.mode = false) : Performs s i (raiseError .badState s)
  | wrongCount (hm : s.mode = .loading) (hk : s.kcount.val ≠ 256) :
    Performs s .keyEnd (raiseError .invalidKeySize { s with mode := .idle })
  | observes {i : Instr} (hi : isObserver i = true) (ha : allowed i s.mode = true) :
    Performs s i (respond .ok (answer i s) s)
  | begins : Performs s .keyBegin (respond .ok 0 { s with mode := .loading, kcount := 0, err := .ok })
  | stores {d : Byte} (hm : s.mode = .loading) (hk : s.kcount.val < 256) :
    Performs s (.keyByte d) (respond .ok 0 { s.writeS (keyEntry s.kcount) d with kcount := countKeyByte s.kcount })
  | drops {d : Byte} (hm : s.mode = .loading) (hk : ¬ s.kcount.val < 256) :
    Performs s (.keyByte d) (respond .ok 0 { s with kcount := countKeyByte s.kcount })
  | primes (hm : s.mode = .loading) (hk : s.kcount.val = 256) :
    Performs s .keyEnd (respond .ok 0 { drawCur { s with i := 0, j := 0 } with mode := .ready })
  | draws {i : Instr} (hi : i = .advance ∨ i = .next ∨ ∃ p, i = .crypt p) (hm : s.mode = .ready) :
    Performs s i (respond .ok (answer i s) (drawCur s))
  | clears : Performs s .clear
    (respond .ok 0 { s with mode := .idle, kcount := 0, err := .ok, i := 0, j := 0, cur := 0 })
/-- Every command ends in a next state, in one of the ways above. -/
theorem exec_performs (i : Instr) (s : State) : ∃ t, exec i s = .next t ∧ Performs s i t := by
  cases ha : allowed i s.mode with
  | false => exact ⟨_, exec_not_allowed ha, .wrongMode ha⟩
  | true =>
    cases i with
    | nop => exact ⟨_, exec_nop s, .observes rfl ha⟩
    | keyBegin => exact ⟨_, exec_keyBegin s, .begins⟩
    | keyByte d =>
      have hm : s.mode = .loading := by simpa [allowed] using ha
      by_cases hk : s.kcount.val < 256
      · exact ⟨_, exec_keyByte_store hm hk d, .stores hm hk⟩
      · exact ⟨_, exec_keyByte_drop hm hk d, .drops hm hk⟩
    | keyEnd =>
      have hm : s.mode = .loading := by simpa [allowed] using ha
      by_cases hk : s.kcount.val = 256
      · exact ⟨_, exec_keyEnd_prime hm hk, .primes hm hk⟩
      · exact ⟨_, exec_keyEnd_count hm hk, .wrongCount hm hk⟩
    | peek => exact ⟨_, exec_peek (by simpa [allowed] using ha), .observes rfl ha⟩
    | advance =>
      have hm : s.mode = .ready := by simpa [allowed] using ha
      exact ⟨_, exec_advance hm, .draws (.inl rfl) hm⟩
    | next =>
      have hm : s.mode = .ready := by simpa [allowed] using ha
      exact ⟨_, exec_next hm, .draws (.inr (.inl rfl)) hm⟩
    | crypt d =>
      have hm : s.mode = .ready := by simpa [allowed] using ha
      exact ⟨_, exec_crypt hm d, .draws (.inr (.inr ⟨d, rfl⟩)) hm⟩
    | status => exact ⟨_, exec_status s, .observes rfl ha⟩
    | rdS a => exact ⟨_, exec_rdS (by simpa [allowed] using ha) a, .observes rfl ha⟩
    | rdI => exact ⟨_, exec_rdI (by simpa [allowed] using ha), .observes rfl ha⟩
    | rdJ => exact ⟨_, exec_rdJ (by simpa [allowed] using ha), .observes rfl ha⟩
    | rdKcnt => exact ⟨_, exec_rdKcnt s, .observes rfl ha⟩
    | clear => exact ⟨_, exec_clear s, .clears⟩

/-- Inversion: a command that answered a next state ended in one of the ways above. -/
theorem performs_of_exec {i : Instr} {s t : State} (h : exec i s = .next t) : Performs s i t := by
  obtain ⟨u, hu, hp⟩ := exec_performs i s
  rw [h] at hu
  cases hu
  exact hp

/-- What one of the ways above leaves is what the command answers. -/
theorem exec_of_performs {i : Instr} {s t : State} (h : Performs s i t) : exec i s = .next t := by
  cases h with
  | wrongMode h => exact exec_not_allowed h
  | wrongCount hm hk => exact exec_keyEnd_count hm hk
  | observes hi ha =>
    cases i with
    | nop => exact exec_nop s
    | peek => exact exec_peek (by simpa [allowed] using ha)
    | status => exact exec_status s
    | rdS a => exact exec_rdS (by simpa [allowed] using ha) a
    | rdI => exact exec_rdI (by simpa [allowed] using ha)
    | rdJ => exact exec_rdJ (by simpa [allowed] using ha)
    | rdKcnt => exact exec_rdKcnt s
    | keyBegin | keyByte | keyEnd | advance | next | crypt | clear => cases hi
  | begins => exact exec_keyBegin s
  | stores hm hk => exact exec_keyByte_store hm hk _
  | drops hm hk => exact exec_keyByte_drop hm hk _
  | primes hm hk => exact exec_keyEnd_prime hm hk
  | draws hi hm =>
    rcases hi with rfl | rfl | ⟨p, rfl⟩
    · exact exec_advance hm
    · exact exec_next hm
    · exact exec_crypt hm p
  | clears => exact exec_clear s

end Sys2Proof.Machine
end

