-- ==== Sys2Proof/Laws/PerInstr.lean ====
section
/-! SUPPORT. Facts about every command as syntax, one lemma per constructor. -/

/-- The encoding of a command is a legal word (R45, R48). -/
def Sys2Proof.Laws.EncodeLegal.Statement (i : Sys2Proof.Instr) : Prop :=
  Sys2Proof.Word.legal (Sys2Proof.encode i) = true

namespace Sys2Proof.Laws.EncodeLegal

theorem nop : Statement .nop := rfl
theorem keyBegin : Statement .keyBegin := rfl
theorem keyByte (d : Byte) : Statement (.keyByte d) := by
  unfold Statement; revert d; decide
theorem keyEnd : Statement .keyEnd := rfl
theorem peek : Statement .peek := rfl
theorem advance : Statement .advance := rfl
theorem next : Statement .next := rfl
theorem crypt (d : Byte) : Statement (.crypt d) := by
  unfold Statement; revert d; decide
theorem status : Statement .status := rfl
theorem rdS (a : Byte) : Statement (.rdS a) := by
  unfold Statement; revert a; decide
theorem rdI : Statement .rdI := rfl
theorem rdJ : Statement .rdJ := rfl
theorem rdKcnt : Statement .rdKcnt := rfl
theorem clear : Statement .clear := rfl

end Sys2Proof.Laws.EncodeLegal
end

