-- ==== Sys2Proof/Laws/Script.lean ====
section
/-! SUPPORT. Transactions and sessions: one transaction of a decoded command, sessions put end to end, and one step of a run at
the port. -/

namespace Sys2Proof.Machine

theorem words_append (is ks : List Instr) : words (is ++ ks) = words is ++ words ks := List.map_append

theorem words_loadKey (key : List Byte) : words (loadKey key) = words (sendKey key) ++ [encode .keyEnd] :=
  words_append _ _

/-- A run of the machine takes its first step by `step`. -/
theorem core_run_succ {s t : State} (k : Nat) (h : step s = .next t) : core.run (k + 1) s = core.run k t := by
  have h' : core.step s = .next t := h
  simp only [Host.Core.run, h']

/-- A transaction whose word is performed gives the response left at the port. -/
theorem transact_of_performWord {w : Word} {s t : State} {r : Response}
    (h : performWord w { s with cmd := none, rsp := none } = .next t) (hr : t.rsp = some r) :
    transact w s = some (r, { t with rsp := none }) := by
  unfold transact
  rw [step_offerWord, h]
  simp [hr]

/-- A session whose first transaction and whose rest are known. -/
theorem session_cons {w : Word} {ws : List Word} {s t u : State} {r : Response} {rs : List Response}
    (h : transact w s = some (r, t)) (hs : session ws t = some (rs, u)) :
    session (w :: ws) s = some (r :: rs, u) := by
  simp only [session, h, hs, Option.map_some]

/-- A session has one response a word. -/
theorem session_length {ws : List Word} {s t : State} {rs : List Response} (h : session ws s = some (rs, t)) :
    rs.length = ws.length := by
  induction ws generalizing s rs with
  | nil =>
    simp only [session, Option.some.injEq, Prod.mk.injEq] at h
    rw [← h.1]
    rfl
  | cons w ws ih =>
    simp only [session] at h
    cases hw : transact w s with
    | none => simp [hw] at h
    | some p =>
      obtain ⟨r, u⟩ := p
      simp only [hw, Option.map_eq_some_iff, Prod.mk.injEq, Prod.exists] at h
      obtain ⟨rs', t', hs, rfl, rfl⟩ := h
      rw [List.length_cons, List.length_cons, ih hs]

/-- A session that is the words `ws` and then the words `vs`. -/
theorem session_append {ws vs : List Word} {s t : State} {rs : List Response} (h : session ws s = some (rs, t)) :
    session (ws ++ vs) s = (session vs t).map (fun p => (rs ++ p.1, p.2)) := by
  induction ws generalizing s rs with
  | nil =>
    simp only [session, Option.some.injEq, Prod.mk.injEq] at h
    obtain ⟨rfl, rfl⟩ := h
    simp
  | cons w ws ih =>
    simp only [List.cons_append, session] at h ⊢
    cases hw : transact w s with
    | none => simp [hw] at h
    | some p =>
      obtain ⟨r, u⟩ := p
      simp only [hw, Option.map_eq_some_iff, Prod.mk.injEq, Prod.exists] at h ⊢
      obtain ⟨rs', t', hs, rfl, rfl⟩ := h
      rw [ih hs]
      cases session vs t' <;> simp

/-- A session with one more word at its end. -/
theorem session_snoc {ws : List Word} {w : Word} {s t u : State} {rs : List Response} {r : Response}
    (h : session ws s = some (rs, t)) (hw : transact w t = some (r, u)) :
    session (ws ++ [w]) s = some (rs ++ [r], u) := by
  rw [session_append h, session_cons hw (by rfl)]
  rfl

end Sys2Proof.Machine
end

