-- ==== Sys2Proof/Tests/Slice0.lean ====
section
/-! SUPPORT. Tests of the model's own. Expected values come from spec/95_test_vectors.md (the vector is named) or from the rule
named; a witness theorem shows that a statement's hypotheses can be met together. -/

namespace Sys2Proof.Tests
open Sys2Proof.Machine

/-! ## Helpers -/

/-- The array whose entry `k` is `f k`. -/
def arrayOf (f : Nat → Nat) : Memory := (List.range 256).map (fun k => (k, BitVec.ofNat 8 (f k)))

/-- The identity array but for the listed entries (the form of the vectors V-W1 to V-W10). -/
def exceptOf (changes : List (Nat × Nat)) : Memory := arrayOf (fun k => (changes.lookup k).getD k)

/-- A state with the array `m`, in a mode with a count. -/
def stateWith (m : Memory) (md : Mode) (kc : KeyCount) : State := { State.reset with S := m, mode := md, kcount := kc }

/-- V-C1: after LOADKEY_IDENTITY. -/
def afterIdentity : State := { stateWith (arrayOf id) .ready 256 with i := 1, j := 1, cur := 2 }

/-- The next state of an outcome. -/
def stateOf (o : Host.Outcome State Fault Refusal) : Option State :=
  match o with
  | .next t => some t
  | .fault _ => none
  | .refused _ => none

/-- The response an outcome leaves at the port, as code and data. -/
def answerOf (o : Host.Outcome State Fault Refusal) : Option (Code × Nat) :=
  (stateOf o).bind (fun t => t.rsp.map (fun r => (r.code, r.data.toNat)))

/-- One GenStep as numbers: the byte, `i`, `j`, and the listed entries of the array afterwards. -/
def genRow (m : Memory) (i j : Byte) (at' : List Nat) : Nat × Nat × Nat × List Nat :=
  let (b, t) := genStep { stateWith m .ready 256 with i := i, j := j }
  (b.toNat, t.i.toNat, t.j.toNat, at'.map (fun a => (t.readS (BitVec.ofNat 8 a)).toNat))

/-! ## Well-formedness: an ill-formed word for each check (R48) -/

theorem test_wf_refuses_reserved_opcode : Word.opAssigned 0xE000 = false ∧ Word.legal 0xE000 = false ∧
    Word.opAssigned 0xF0FF = false ∧ Word.legal 0xF0FF = false := by decide
theorem test_wf_refuses_reserved_bits : Word.rsvZero 0x7141 = false ∧ Word.legal 0x7141 = false ∧
    Word.rsvZero 0x2F05 = false ∧ Word.legal 0x2F05 = false := by decide
theorem test_wf_refuses_operand_where_none : Word.dataAllowed 0x4001 = false ∧ Word.legal 0x4001 = false := by decide
theorem test_wf_accepts : Word.legal 0x0000 = true ∧ Word.legal 0x20FF = true ∧ Word.legal 0xD000 = true := by decide

/-! ## Decoding: each command's word, bit by bit from R45 and its rule -/

theorem test_decode_nop : decode 0b0000000000000000 = .ok .nop := by decide
theorem test_decode_keyBegin : decode 0b0001000000000000 = .ok .keyBegin := by decide
theorem test_decode_keyByte : decode 0b0010000001000001 = .ok (.keyByte 0x41) := by decide
theorem test_decode_keyEnd : decode 0b0011000000000000 = .ok .keyEnd := by decide
theorem test_decode_peek : decode 0b0100000000000000 = .ok .peek := by decide
theorem test_decode_advance : decode 0b0101000000000000 = .ok .advance := by decide
theorem test_decode_next : decode 0b0110000000000000 = .ok .next := by decide
theorem test_decode_crypt : decode 0b0111000011110000 = .ok (.crypt 0xF0) := by decide
theorem test_decode_status : decode 0b1000000000000000 = .ok .status := by decide
theorem test_decode_rdS : decode 0b1001000000000101 = .ok (.rdS 5) := by decide
theorem test_decode_rdI : decode 0b1010000000000000 = .ok .rdI := by decide
theorem test_decode_rdJ : decode 0b1011000000000000 = .ok .rdJ := by decide
theorem test_decode_rdKcnt : decode 0b1100000000000000 = .ok .rdKcnt := by decide
theorem test_decode_clear : decode 0b1101000000000000 = .ok .clear := by decide
theorem test_decode_illegal : decode 0xF0FF = .error .reservedOpcode ∧ decode 0x2F05 = .error .reservedBits ∧
    decode 0x6001 = .error .operandNotZero ∧ decodeBytes [0x60] = .error .truncated := by decide
theorem test_decode_table_word : decodeTableWord 16 0x9005 = some (.rdS 5) ∧ decodeTableWord 16 0xE000 = none := by decide
theorem test_decode_bytes_high_first : decodeBytes [0x70, 0x48, 0x60] = .ok (.crypt 0x48, [0x60]) := by decide

/-! ## Spelling (R51) -/

theorem test_spell : spellWord 0x2041 = "KEY_BYTE 0x41".toList ∧ spellWord 0x6000 = "NEXT".toList ∧
    spellWord 0xE000 = ".word 0xE000".toList := by decide +kernel
theorem test_assemble : assembleLine "KEY_BYTE 'A' ; a letter".toList = some 0x2041 ∧
    assembleLine "CRYPT 65".toList = some 0x7041 ∧ assembleLine "RD_S 'A'".toList = none ∧
    assembleLine "RD_S 256".toList = none := by decide +kernel

/-- R44: the response as `{code[2:0], data[7:0]}`. -/
theorem test_response_bits : responseBits ⟨.badState, 0x00⟩ = 0b01000000000 ∧ responseBits ⟨.ok, 0x4A⟩ = 0b00001001010 := by
  decide

/-! ## GenStep (95_test_vectors.md section 2) -/

theorem test_genStep_self_swap_and_swap :
    genRow (arrayOf id) 0 0 [1, 2] = (2, 1, 1, [1, 2]) ∧ genRow (arrayOf id) 1 1 [2, 3] = (5, 2, 3, [3, 2]) := by
  decide +kernel
/-- V-W3, V-W4: the output at `h` and at `q` is the moved-in value. -/
theorem test_genStep_output_at_swapped_entry :
    genRow (exceptOf [(1, 2), (2, 255)]) 0 0 [1, 2] = (255, 1, 2, [255, 2]) ∧
    genRow (exceptOf [(1, 3), (3, 0)]) 0 0 [1, 3] = (3, 1, 3, [0, 3]) := by decide +kernel
/-- V-W5, V-W6: accumulator to 0; the sum wraps. -/
theorem test_genStep_zero_and_sum_wrap :
    genRow (exceptOf [(0, 1), (1, 0)]) 0 0 [0, 1] = (1, 1, 0, [0, 1]) ∧
    genRow (exceptOf [(1, 200), (200, 100)]) 0 0 [1, 200] = (44, 1, 200, [100, 200]) := by decide +kernel
/-- V-W7, V-W7b, V-W9: constant keys; the accumulator wraps. -/
theorem test_genStep_constant_keys :
    genRow (arrayOf (fun _ => 255)) 0 0 [1, 255] = (255, 1, 255, [255, 255]) ∧
    genRow (arrayOf (fun _ => 255)) 1 255 [2] = (255, 2, 254, [255]) ∧
    genRow (arrayOf (fun _ => 0)) 0 0 [0, 1] = (0, 1, 0, [0, 0]) := by decide +kernel
/-- V-W8, V-W10: the counter wraps; accumulator and sum wrap together. -/
theorem test_genStep_counter_wrap :
    genRow (exceptOf [(0, 7), (7, 0)]) 255 10 [0, 17] = (24, 0, 17, [17, 7]) ∧
    genRow (arrayOf id) 254 10 [9, 255] = (8, 255, 9, [255, 9]) := by decide +kernel

/-! ## Commands (95_test_vectors.md section 3) -/

/-- V-K6: `err` unchanged. -/
theorem test_nop_keeps_err : (stateOf (exec .nop { State.reset with err := .badState })).map (·.err) = some .badState := by
  decide
/-- R56: in LOADING after two bytes the count restarts and `err` clears. -/
theorem test_keyBegin_restarts :
    (stateOf (exec .keyBegin { stateWith [(0, 0x11), (1, 0x22)] .loading 2 with err := .illegal })).map
      (fun t => (t.mode, t.kcount, t.err)) = some (.loading, 0, .ok) := by decide
/-- R57's example. -/
theorem test_keyByte_first :
    (stateOf (exec (.keyByte 7) (stateWith [] .loading 0))).map (fun t => (t.S.read? 0, t.kcount)) = some (some 7, 1) := by
  decide
/-- V-K8: at 256 the byte is dropped and the count saturates. -/
theorem test_keyByte_saturates :
    (stateOf (exec (.keyByte 0xAA) (stateWith (arrayOf id) .loading 256))).map (fun t => (t.S == arrayOf id, t.kcount)) =
      some (true, 257) := by decide +kernel
/-- V-C1: the priming draw. -/
theorem test_keyEnd_primes :
    (stateOf (exec .keyEnd (stateWith (arrayOf id) .loading 256))).map
      (fun t => (t.mode, t.i.toNat, t.j.toNat, t.cur.toNat, (statusByte t).toNat)) = some (.ready, 1, 1, 2, 0x22) := by
  decide +kernel
/-- V-C3: 257 bytes. -/
theorem test_keyEnd_fails_on_257 :
    (stateOf (exec .keyEnd (stateWith (arrayOf id) .loading 257))).map
      (fun t => (t.mode, t.err, (statusByte t).toNat, t.rsp)) =
      some (.idle, .invalidKeySize, 0x64, some ⟨.invalidKeySize, 0⟩) := by decide +kernel
/-- V-S2. -/
theorem test_peek : answerOf (exec .peek afterIdentity) = some (.ok, 2) := by decide +kernel
/-- V-S5. -/
theorem test_peek_before_key : answerOf (exec .peek State.reset) = some (.badState, 0) := by decide +kernel
/-- V-S2: `cur` 5, `i` 2, `j` 3. -/
theorem test_advance :
    (stateOf (exec .advance afterIdentity)).map (fun t => (t.cur.toNat, t.i.toNat, t.j.toNat, t.rsp)) =
      some (5, 2, 3, some ⟨.ok, 0⟩) := by decide +kernel
/-- V-S1, V-K4: the old byte is returned; the swap is visible. -/
theorem test_next :
    (stateOf (exec .next afterIdentity)).map (fun t => (t.rsp, t.cur.toNat, t.S.read? 2, t.S.read? 3)) =
      some (some ⟨.ok, 2⟩, 5, some 3, some 2) := by decide +kernel
/-- V-X1, V-X3. -/
theorem test_crypt : answerOf (exec (.crypt 0x48) afterIdentity) = some (.ok, 0x4A) ∧
    answerOf (exec (.crypt 0x02) afterIdentity) = some (.ok, 0) := by decide +kernel
/-- V-K8 and R83's example: STATUS after 256 bytes, after 257, and after a failed 255-byte load. -/
theorem test_status :
    answerOf (exec .status (stateWith [] .loading 256)) = some (.ok, 0x21) ∧
    answerOf (exec .status (stateWith [] .loading 257)) = some (.ok, 0x61) ∧
    answerOf (exec .status { stateWith [] .idle 255 with err := .invalidKeySize }) = some (.ok, 0x04) := by decide +kernel
/-- V-K4: after one NEXT. -/
theorem test_rdS :
    ((stateOf (exec .next afterIdentity)).map (fun t => (answerOf (exec (.rdS 2) t), answerOf (exec (.rdS 3) t)))) =
      some (some (.ok, 3), some (.ok, 2)) := by decide +kernel
/-- V-K3. -/
theorem test_rdI : answerOf (exec .rdI afterIdentity) = some (.ok, 1) := by decide +kernel
/-- V-K4: RD_J after one NEXT. -/
theorem test_rdJ : ((stateOf (exec .next afterIdentity)).map (fun t => answerOf (exec .rdJ t))) = some (some (.ok, 3)) := by
  decide +kernel
/-- R84: 256 reads as 0x00, 257 as 0x01, 255 as 0xFF. -/
theorem test_rdKcnt :
    answerOf (exec .rdKcnt (stateWith [] .loading 256)) = some (.ok, 0) ∧
    answerOf (exec .rdKcnt (stateWith [] .loading 257)) = some (.ok, 1) ∧
    answerOf (exec .rdKcnt (stateWith [] .idle 255)) = some (.ok, 0xFF) := by decide +kernel
/-- V-K7 and R88: `S` stays. -/
theorem test_clear :
    (stateOf (exec .clear afterIdentity)).map (fun t => (t.mode, (statusByte t).toNat, t.cur.toNat, t.S == arrayOf id)) =
      some (.idle, 0, 0, true) := by decide +kernel
/-- V-E1, V-E3, V-E6: the step on an illegal word; ILLEGAL wins over the mode. -/
theorem test_step_illegal :
    answerOf (step (afterIdentity.withFetchWord 16 0x4001)) = some (.illegal, 0) ∧
    answerOf (step (State.reset.withFetchWord 16 0x6001)) = some (.illegal, 0) ∧
    (stateOf (step (State.reset.withFetchWord 16 0xE000))).map (·.err) = some .illegal := by decide +kernel
/-- R44, R105: a script at the port: offer KEY_BEGIN, take, offer RD_KCNT. -/
theorem test_port_script :
    answerOf (core.run 5 { State.reset with host := [.offer 0x1000, .take, .offer 0xC000, .take] }) = some (.ok, 0) := by
  decide +kernel

/-! ## Witnesses: the hypotheses of each statement met together -/

theorem witness_EncodeOfDecodeIsTheWord : decode 0x7048 = .ok (.crypt 0x48) := by decide
theorem witness_DecodeFollowsOpcodeTable :
    decode 0xD000 = .ok .clear ∧ decode 0xE000 = .error .reservedOpcode := by decide
theorem witness_StepPerformsTheDecodedCommand : ∃ s : State, s.cmd = some 0x0000 ∧ s.rsp = none ∧
    decode 0x0000 = .ok .nop := ⟨offerWord 0x0000 State.reset, rfl, rfl, rfl⟩
theorem witness_IllegalWordChangesOnlyErr : ∃ s : State, s.cmd = some 0xE000 ∧ s.rsp = none ∧
    Word.legal 0xE000 = false := ⟨offerWord 0xE000 State.reset, rfl, rfl, rfl⟩
theorem witness_EachCodeHasExactlyItsCause :
    answerOf (step (offerWord 0x0001 State.reset)) = some (.illegal, 0) ∧
    answerOf (step (offerWord 0x3000 State.reset)) = some (.badState, 0) ∧
    answerOf (step (offerWord 0x3000 (stateWith [] .loading 255))) = some (.invalidKeySize, 0) ∧
    answerOf (step (offerWord 0x0000 State.reset)) = some (.ok, 0) := by decide +kernel
/-- A held word behind an untaken response, with the host taking it or making no move; and a READY core with an idle port, the
host making no move, offering a word, or taking a response that is not there. -/
theorem witness_OutstandingResponseBlocksTheNextCommand :
    (∀ h ∈ [[], [HostMove.take]], ∃ s t : State, s.cmd = some 0x6000 ∧ s.rsp = some ⟨.ok, 0⟩ ∧ s.host = h ∧
      (∀ rest, s.host ≠ .rst :: rest) ∧ (∀ v rest, s.host ≠ .rstDuring v :: rest) ∧ step s = .next t) ∧
    (∀ h ∈ [[], [HostMove.offer 0x6000], [HostMove.take]], ∃ s t : State, s.mode = .ready ∧ s.cmd = none ∧ s.host = h ∧
      (∀ rest, s.host ≠ .rst :: rest) ∧ (∀ v rest, s.host ≠ .rstDuring v :: rest) ∧ step s = .next t) := by
  constructor
  · intro h hh
    simp only [List.mem_cons, List.not_mem_nil, or_false] at hh
    rcases hh with rfl | rfl <;>
      exact ⟨{ offerWord 0x6000 State.reset with rsp := some ⟨.ok, 0⟩, host := _ }, _, rfl, rfl, rfl, by simp, by simp, rfl⟩
  · intro h hh
    simp only [List.mem_cons, List.not_mem_nil, or_false] at hh
    rcases hh with rfl | rfl | rfl <;>
      exact ⟨{ afterIdentity with host := _ }, _, rfl, rfl, rfl, by simp, by simp, rfl⟩
theorem witness_PortScriptCarriesOutTheSession : State.reset.cmd = none ∧ State.reset.rsp = none := ⟨rfl, rfl⟩
/-- The fault is reached: the host changes a word that waits behind an untaken response. -/
theorem witness_StepStopsOnlyForAHostThatChangesItsWord :
    step { offerWord 0x6000 State.reset with rsp := some ⟨.ok, 0⟩, host := [.offer 0x5000] } = .fault .commandChanged :=
  rfl
theorem witness_ResetGivesEveryElementItsResetValue : ∃ s : State, s.cmd = some 0x6000 ∧ s.rsp ≠ none ∧
    s.host = [.rst] :=
  ⟨{ offerWord 0x6000 State.reset with rsp := some ⟨.ok, 0⟩, host := [.rst] }, rfl, by simp, rfl⟩
theorem witness_ResetDuringACommandCancelsIt : afterIdentity.cmd = none ∧ afterIdentity.rsp = none := ⟨rfl, rfl⟩
/-- A response outstanding, the word held or the port free. -/
theorem witness_ResetDuringMoveBehindAResponseWithdrawsTheWord :
    ∀ c ∈ [none, some (0x6000 : Word)], ∃ s : State, s.rsp ≠ none ∧ s.cmd = c :=
  fun c _ => ⟨{ afterIdentity with rsp := some ⟨.ok, 0⟩, cmd := c }, by simp, rfl⟩
/-- For each opcode with a refused word, one such word (R48, and each command rule's "Errors" line). -/
theorem witness_RefusesUnless :
    (opField 0x0100 = 0x0 ∧ opField 0x1001 = 0x1 ∧ opField 0x3001 = 0x3 ∧ opField 0x4001 = 0x4 ∧ opField 0x5001 = 0x5 ∧
      opField 0x6001 = 0x6 ∧ opField 0x8001 = 0x8 ∧ opField 0xA001 = 0xA ∧ opField 0xB001 = 0xB ∧ opField 0xC001 = 0xC ∧
      opField 0xD001 = 0xD) ∧
    (opField 0x2F05 = 0x2 ∧ rsvField 0x2F05 ≠ 0) ∧ (opField 0x7141 = 0x7 ∧ rsvField 0x7141 ≠ 0) ∧
    (opField 0x9100 = 0x9 ∧ rsvField 0x9100 ≠ 0) := by decide
/-- Modes in which the mode check fails, for LOADING and for READY commands. -/
theorem witness_OnlyIn : State.reset.mode ≠ .loading ∧ State.reset.mode ≠ .ready ∧ afterIdentity.mode ≠ .loading := by
  decide
/-- Both clauses of KEY_BYTE, at the counts where they meet. -/
theorem witness_KeyByteStoresTheNextKeyByte :
    ((stateWith [] .loading 255).mode = .loading ∧ (stateWith [] .loading 255).kcount.val < 256) ∧
    ((stateWith [] .loading 256).mode = .loading ∧ 256 ≤ (stateWith [] .loading 256).kcount.val) := by decide
theorem witness_KeyEndChecksTheCountAndPrimes :
    (stateWith [] .loading 256).mode = .loading ∧ (stateWith [] .loading 256).kcount.val = 256 ∧
    (stateWith [] .loading 255).mode = .loading ∧ (stateWith [] .loading 255).kcount.val ≠ 256 ∧
    (stateWith [] .loading 257).kcount.val ≠ 256 := by decide
/-- READY, for PEEK, ADVANCE, NEXT, CRYPT, RD_S, RD_I, RD_J; and `d = cur` for CRYPT. -/
theorem witness_ReadyCommands : afterIdentity.mode = .ready ∧ (0x02 : Byte) = afterIdentity.cur := by decide
/-- R64's clauses: `h ≠ q` with an entry that is neither, `h = q`, `w = h` and `w = q`. -/
theorem witness_GenStepHasTheClosedForm :
    (afterIdentity.i + 1 = 2 ∧ afterIdentity.j + afterIdentity.readS 2 = 3) ∧
    ((stateWith (arrayOf id) .ready 256).readS 1 = 1) ∧
    ((stateWith (exceptOf [(1, 2), (2, 255)]) .ready 256).readS 1 + (stateWith (exceptOf [(1, 2), (2, 255)]) .ready 256).readS 2
      = 1) ∧
    ((stateWith (exceptOf [(1, 3), (3, 0)]) .ready 256).readS 1 + (stateWith (exceptOf [(1, 3), (3, 0)]) .ready 256).readS 3
      = 3) := by decide +kernel
theorem witness_GenStepSumsAreModulo256 : ({ State.reset with i := 255 } : State).i = 255 := rfl
theorem witness_ArrayStaysARearrangementOfTheKey : identityKey.length = 256 ∧ afterIdentity.mode = .ready ∧
    ((stateOf (step (offerWord 0x5000 afterIdentity))).map (·.mode)) = some .ready := by decide +kernel
/-- The key of AfterKeyEndTheFirstByteIsDrawn, KeystreamRunReturnsTheFirstBytes, CryptTwiceIsTheIdentity and
EveryKeystreamByteIsAKeyByte; the draws of the last are those of `witness_KeystreamIsNumberedByDraws`. -/
theorem witness_KeyOf256Bytes : identityKey.length = 256 ∧ (List.replicate 256 (7 : Byte)).length = 256 := by decide +kernel
/-- Two different states with the same `(S, i, j)`; a key; two lists of draws of one length. -/
theorem witness_SameKeyAndDrawsGiveTheSameGenerator :
    (∀ a : Byte, afterIdentity.readS a = (stateWith (arrayOf id) .idle 0).readS a) ∧ identityKey.length = 256 ∧
    [Instr.next, Instr.crypt 1].length = [Instr.advance, Instr.next].length ∧
    (∀ i ∈ [Instr.next, Instr.crypt 1], isDraw i = true) ∧ (∀ i ∈ [Instr.advance, Instr.next], isDraw i = true) := by
  decide +kernel
theorem witness_KeyByteLandsAtItsOwnIndex : identityKey.length ≤ 256 ∧ ([0x11, 0x22] : List Byte).length ≤ 256 := by
  decide +kernel
theorem witness_ConstructionSucceedsExactlyOn256Bytes : identityKey.length = 256 ∧
    (List.replicate 255 (0 : Byte)).length ≠ 256 ∧ (List.replicate 257 (0 : Byte)).length ≠ 256 := by decide +kernel
theorem witness_KeystreamIsNumberedByDraws : identityKey.length = 256 ∧
    ∀ i ∈ [Instr.advance, Instr.next, Instr.crypt 0x48], isDraw i = true := by decide +kernel
theorem witness_CryptRunXorsWithTheKeystream : identityKey.length = 256 ∧ ([] : List Byte).length ≠ 256 := by decide +kernel
/-- READY after LOADKEY_IDENTITY meets the invariant. -/
theorem witness_Inv : Inv afterIdentity where
  memory := by decide +kernel
  readyWhole := by
    intro _
    have h : ∀ a : Fin 256, (afterIdentity.S.read? a.val).isSome = true := by decide +kernel
    exact fun a ha => h ⟨a, ha⟩
  readyCount := fun _ => rfl
  loadingPrefix := by
    intro h
    cases h
  pending := by
    intro r h
    cases h
theorem witness_EveryStepKeepsTheInvariant : Inv afterIdentity ∧ ∃ t, step afterIdentity = .next t :=
  ⟨witness_Inv, _, rfl⟩
/-- An `Inv` state that draws in its next step. -/
theorem witness_ResetBytesNeverReachAResponse : Inv (offerWord 0x6000 afterIdentity) ∧
    answerOf (step (offerWord 0x6000 afterIdentity)) = some (.ok, 2) :=
  ⟨⟨witness_Inv.memory, witness_Inv.readyWhole, witness_Inv.readyCount, witness_Inv.loadingPrefix, by simp⟩,
    by decide +kernel⟩
theorem witness_NoErrorAfterConstruction : afterIdentity.mode = .ready ∧ isDraw (.crypt 0) = true ∧
    Instr.peek ∈ [Instr.peek, .rdI, .rdJ] ∧ ∃ a, Instr.rdS 255 = .rdS a := ⟨rfl, rfl, by decide, 255, rfl⟩
theorem witness_FailedCommandChangesOnlyErr :
    (∃ t, exec .next State.reset = .next t ∧ t.rsp = some ⟨.badState, 0⟩) ∧
    (∃ t, exec .keyEnd (stateWith [] .loading 255) = .next t ∧ t.rsp = some ⟨.invalidKeySize, 0⟩) ∧
    Word.legal 0x4001 = false :=
  ⟨⟨_, rfl, rfl⟩, ⟨_, rfl, rfl⟩, rfl⟩
theorem witness_ObservationChangesNothing :
    ∃ t, exec (.rdS 255) afterIdentity = .next t ∧ t.rsp = some ⟨.ok, afterIdentity.readS 255⟩ := ⟨_, rfl, rfl⟩
theorem witness_OnlyItsWritersChangeAnElement : ∃ t, exec .advance afterIdentity = .next t := ⟨_, rfl⟩

end Sys2Proof.Tests
end

section
/-! SUPPORT. Every command decodes from its own encoding (30_encoding.md R45 to R48), and what any step of the machine can
leave. -/

namespace Sys2Proof

/-! ## Encode, then decode -/

theorem wordOfFields_toNat (op rsv : BitVec 4) (data : Byte) :
    (wordOfFields op rsv data).toNat = op.toNat * 4096 + rsv.toNat * 256 + data.toNat := by
  simp only [wordOfFields, BitVec.toNat_append]
  rw [← Nat.shiftLeft_add_eq_or_of_lt rsv.isLt, ← Nat.shiftLeft_add_eq_or_of_lt data.isLt]
  simp only [Nat.shiftLeft_eq]
  omega

@[simp] theorem opField_wordOfFields (op rsv : BitVec 4) (data : Byte) : opField (wordOfFields op rsv data) = op := by
  apply BitVec.eq_of_toNat_eq
  rw [opField_toNat, wordOfFields_toNat]
  omega

@[simp] theorem rsvField_wordOfFields (op rsv : BitVec 4) (data : Byte) :
    rsvField (wordOfFields op rsv data) = rsv := by
  apply BitVec.eq_of_toNat_eq
  rw [rsvField_toNat, wordOfFields_toNat]
  omega

@[simp] theorem dataField_wordOfFields (op rsv : BitVec 4) (data : Byte) :
    dataField (wordOfFields op rsv data) = data := by
  apply BitVec.eq_of_toNat_eq
  rw [dataField_toNat, wordOfFields_toNat]
  omega

theorem opcode_lt (i : Instr) : (opcode i).toNat < 0xE := by
  cases i <;> simp [opcode]

theorem selectCommand_opcode_operand (i : Instr) : selectCommand (opcode i) (operand i) = .ok i := by
  cases i <;> rfl

/-- The decoder gives every command back from its encoding. -/
theorem decode_encode (i : Instr) : decode (encode i) = .ok i := by
  simp only [decode, encode, opField_wordOfFields, rsvField_wordOfFields, dataField_wordOfFields,
    selectCommand_opcode_operand, if_neg (Nat.not_le.mpr (opcode_lt i)), ne_eq, not_true_eq_false, if_false]

namespace Machine

/-! ## What a step can leave -/

/-- A performed word is an illegal one, answered ILLEGAL, or a command that ended in one of its ways (R89). -/
theorem performWord_cases (w : Word) (s : State) :
    (∃ e, decode w = .error e ∧ performWord w s = .next (raiseError .illegal s)) ∨
      ∃ i t, decode w = .ok i ∧ performWord w s = .next t ∧ Performs s i t := by
  cases hw : decode w with
  | error e => exact .inl ⟨e, rfl, performWord_error hw s⟩
  | ok i =>
    obtain ⟨t, ht, hp⟩ := exec_performs i s
    exact .inr ⟨i, t, rfl, (performWord_ok hw s).trans ht, hp⟩

/-- Everything a step that answers a next state can have done: refused an illegal word, performed a command, or made the host's
move. -/
theorem step_next_cases {s t : State} (h : step s = .next t) :
    t = raiseError .illegal { s with cmd := none } ∨ (∃ i, Performs { s with cmd := none } i t) ∨
      (s.cmd = none ∨ s.rsp ≠ none) ∧ hostStep s = .next t := by
  rcases step_cases s with ⟨w, -, -, hs⟩ | ⟨hp, hs⟩
  · rw [h] at hs
    rcases performWord_cases w { s with cmd := none } with ⟨-, -, he⟩ | ⟨i, u, -, hu, hp⟩
    · rw [he] at hs
      cases hs
      exact .inl rfl
    · rw [hu] at hs
      cases hs
      exact .inr (.inl ⟨i, hp⟩)
  · exact .inr (.inr ⟨hp, hs ▸ h⟩)

end Machine
end Sys2Proof
end

section
/-! SUPPORT. What commands and host moves leave unchanged (10_state.md R20 to R22), and the status view (R24). -/

namespace Sys2Proof.Machine

/-! ## A step that performs no command -/

theorem portFree_iff {w : Word} {s : State} : portFree w s = true ↔ s.cmd = none ∨ s.cmd = some w := by
  simp [portFree]

/-- Settles O12: such a step is the host's move, and by `hostStep_cases` it waits, offers on a free port, or takes. -/
theorem outstandingResponseBlocksTheNextCommand : Obligations.OutstandingResponseBlocksTheNextCommand := by
  intro s t hblocked hrst hrstDuring h
  rw [step_of_host hblocked] at h
  rcases hostStep_cases h with ⟨hh, rfl⟩ | ⟨w, rest, hh, hfree, rfl⟩ | ⟨rest, hh, rfl⟩ | ⟨rest, hh, -⟩ |
    ⟨w, rest, hh, -⟩
  · exact ⟨by rw [hh, List.tail_nil, ← hh], .inl rfl, .inl rfl, fun _ => rfl⟩
  · have hcmd : some w = s.cmd ∨ s.cmd = none := (portFree_iff.mp hfree).symm.imp_left Eq.symm
    simpa [hh] using hcmd
  · simp [hh]
  · exact absurd hh (hrst rest)
  · exact absurd hh (hrstDuring w rest)

/-! ## Which element a command writes -/

theorem not_begin_or_clear_of_isObserver {i : Instr} (h : isObserver i = true) : ¬ (i = .keyBegin ∨ i = .clear) := by
  rintro (rfl | rfl) <;> cases h

theorem isDraw_iff {i : Instr} : isDraw i = true ↔ i = .advance ∨ i = .next ∨ ∃ p, i = .crypt p := by
  cases i <;> simp [isDraw]

/-- Settles O51, by the ways a command can end. -/
theorem errHoldsTheLatestFailure : Obligations.ErrHoldsTheLatestFailure := by
  intro i s
  obtain ⟨t, ht, hp⟩ := exec_performs i s
  refine ⟨t, ?_⟩
  cases hp with
  | wrongMode _ | wrongCount _ _ => exact ⟨_, ht, rfl, rfl⟩
  | observes hi _ => exact ⟨_, ht, rfl, by simp [not_begin_or_clear_of_isObserver hi]⟩
  | begins | clears => exact ⟨_, ht, rfl, rfl⟩
  | stores _ _ | drops _ _ | primes _ _ => exact ⟨_, ht, rfl, by simp⟩
  | draws hi _ =>
    refine ⟨_, ht, rfl, ?_⟩
    rcases hi with rfl | rfl | ⟨p, rfl⟩ <;> simp

/-- Settles O53, by the ways a command can end: each writes the fields its rule names and no others. -/
theorem onlyItsWritersChangeAnElement : Obligations.OnlyItsWritersChangeAnElement := by
  intro i s t h
  cases performs_of_exec h with
  | wrongMode _ | observes _ _ =>
    exact ⟨.inl ⟨rfl, rfl, rfl⟩, .inl fun _ => rfl, .inl rfl, .inl rfl, rfl, rfl, rfl⟩
  | wrongCount _ _ => exact ⟨.inl ⟨rfl, rfl, rfl⟩, .inl fun _ => rfl, by simp, .inl rfl, rfl, rfl, rfl⟩
  | begins => exact ⟨.inl ⟨rfl, rfl, rfl⟩, .inl fun _ => rfl, by simp, by simp, rfl, rfl, rfl⟩
  | stores _ _ => exact ⟨.inl ⟨rfl, rfl, rfl⟩, by simp, .inl rfl, by simp, rfl, rfl, rfl⟩
  | drops _ _ => exact ⟨.inl ⟨rfl, rfl, rfl⟩, .inl fun _ => rfl, .inl rfl, by simp, rfl, rfl, rfl⟩
  | primes _ _ => exact ⟨by simp, by simp, by simp, .inl rfl, rfl, rfl, rfl⟩
  | draws hi _ =>
    have hdraw := isDraw_iff.mpr hi
    exact ⟨by simp [hdraw], by simp [hdraw], .inl rfl, .inl rfl, rfl, rfl, rfl⟩
  | clears => exact ⟨by simp, .inl fun _ => rfl, by simp, by simp, rfl, rfl, rfl⟩

/-! ## The status view -/

/-- The fields of a byte put together as R24 puts the status view together. -/
theorem viewFields (ovf full : Bool) (err : BitVec 3) (mode : BitVec 2) :
    let b : Byte := 0#1 ++ BitVec.ofBool ovf ++ BitVec.ofBool full ++ err ++ mode
    b.extractLsb' 0 2 = mode ∧ b.extractLsb' 2 3 = err ∧ b.getLsbD 5 = full ∧ b.getLsbD 6 = ovf ∧
      b.getLsbD 7 = false := by
  revert ovf full err mode
  decide

theorem statusByte_fields (s : State) :
    (statusByte s).extractLsb' 0 2 = modeCode s.mode ∧ (statusByte s).extractLsb' 2 3 = codeBits s.err ∧
      (statusByte s).getLsbD 5 = kfull s.kcount ∧ (statusByte s).getLsbD 6 = kovf s.kcount ∧
      (statusByte s).getLsbD 7 = false :=
  viewFields _ _ _ _

/-- Settles O27, by `statusByte_fields` and the values of the mode's and the code's bits. -/
theorem statusViewFields : Obligations.StatusViewFields := by
  refine ⟨fun s => ?_, by decide⟩
  obtain ⟨hmode, herr, hfull, hovf, hzero⟩ := statusByte_fields s
  rw [hmode, herr, hfull, hovf]
  refine ⟨?_, ?_, decide_eq_true_iff, decide_eq_true_iff, hzero, ?_, ?_⟩
  · cases s.mode <;> rfl
  · cases s.err <;> rfl
  · cases s.mode <;> decide
  · cases s.err <;> decide

end Sys2Proof.Machine
end

section
/-! SUPPORT. The invariant holds at reset and every step keeps it (10_state.md R28, R29; 40_construction.md R57, R59). -/

namespace Sys2Proof.Machine

/-! ## Ways to meet the invariant -/

/-- The clause `Inv.pending`: an outstanding error response is the one `err` records, with the data 0x00 (R91, R93). -/
def PendingRecorded (t : State) : Prop :=
  ∀ r, t.rsp = some r → r.code ≠ .ok → t.err = r.code ∧ r.data = 0

/-- The invariant speaks of the array, the mode, the count and the pending response only. -/
theorem Inv.of_sameCore {s t : State} (h : Inv s) (hS : t.S = s.S) (hm : t.mode = s.mode) (hk : t.kcount = s.kcount)
    (hp : PendingRecorded t) : Inv t where
  memory := hS ▸ h.memory
  readyWhole hr := hS ▸ h.readyWhole (hm ▸ hr)
  readyCount hr := hk ▸ h.readyCount (hm ▸ hr)
  loadingPrefix hl := hS ▸ hk ▸ h.loadingPrefix (hm ▸ hl)
  pending := hp

/-- In IDLE it asks for the array's form and the pending response alone. -/
theorem Inv.of_idle {t : State} (hw : t.S.wf = true) (hm : t.mode = .idle)
    (hp : PendingRecorded t) : Inv t where
  memory := hw
  readyWhole hr := by simp [hm] at hr
  readyCount hr := by simp [hm] at hr
  loadingPrefix hl := by simp [hm] at hl
  pending := hp

/-- In LOADING it asks for the entries already sent. -/
theorem Inv.of_loading {t : State} (hw : t.S.wf = true) (hm : t.mode = .loading)
    (hpre : ∀ a, a < 256 → a < t.kcount.val → (t.S.read? a).isSome)
    (hp : PendingRecorded t) : Inv t where
  memory := hw
  readyWhole hr := by simp [hm] at hr
  readyCount hr := by simp [hm] at hr
  loadingPrefix _ := hpre
  pending := hp

/-- In READY it asks for the whole array and the full count. -/
theorem Inv.of_ready {t : State} (hw : t.S.wf = true) (hm : t.mode = .ready) (hk : t.kcount.val = 256)
    (hall : ∀ a, a < 256 → (t.S.read? a).isSome)
    (hp : PendingRecorded t) : Inv t where
  memory := hw
  readyWhole _ := hall
  readyCount _ := hk
  loadingPrefix hl := by simp [hm] at hl
  pending := hp

theorem pendingRecorded_of_none {t : State} (h : t.rsp = none) : PendingRecorded t := by
  intro r hr
  rw [h] at hr
  cases hr

theorem pendingRecorded_respond_ok (d : Byte) (s : State) : PendingRecorded (respond .ok d s) := by
  intro r hr hne
  cases hr
  exact absurd rfl hne

theorem pendingRecorded_raiseError (e : Code) (s : State) : PendingRecorded (raiseError e s) := by
  intro r hr _
  cases hr
  exact ⟨rfl, rfl⟩

/-! ## Every step keeps it -/

theorem inv_raiseError {s : State} (h : Inv s) (e : Code) : Inv (raiseError e s) :=
  h.of_sameCore rfl rfl rfl (pendingRecorded_raiseError e s)

theorem inv_powerOn (s : State) : Inv (powerOn s) :=
  .of_idle rfl rfl (pendingRecorded_of_none rfl)

/-- After a stored key byte the entries sent so far are still written, the new one among them (R57). -/
theorem Inv.isSome_stored {s : State} (h : Inv s) (hm : s.mode = .loading) (hk : s.kcount.val < 256) (d : Byte) (a : Nat)
    (ha : a < 256) (hak : a < (countKeyByte s.kcount).val) :
    ((s.writeS (keyEntry s.kcount) d).S.read? a).isSome := by
  rw [countKeyByte_val, if_pos hk] at hak
  rw [writeS_S, keyEntry_toNat hk]
  rcases Nat.lt_succ_iff_lt_or_eq.mp hak with hlt | rfl
  · exact Memory.isSome_write (h.loadingPrefix hm a ha hlt)
  · simp [Memory.read?_write_self]

theorem Inv.of_performs {i : Instr} {s t : State} (h : Inv s) (hp : Performs s i t) : Inv t := by
  cases hp with
  | wrongMode _ => exact inv_raiseError h _
  | wrongCount _ _ => exact .of_idle h.memory rfl (pendingRecorded_raiseError _ _)
  | observes _ _ => exact h.of_sameCore rfl rfl rfl (pendingRecorded_respond_ok _ _)
  | begins => exact .of_loading h.memory rfl (fun _ _ h0 => absurd h0 (Nat.not_lt_zero _)) (pendingRecorded_respond_ok _ _)
  | stores hm hk =>
    exact .of_loading (writeS_wf _ _ h.memory) hm (h.isSome_stored hm hk _) (pendingRecorded_respond_ok _ _)
  | drops hm hk =>
    refine .of_loading h.memory hm (fun a ha _ => ?_) (pendingRecorded_respond_ok _ _)
    exact h.loadingPrefix hm a ha (by omega)
  | primes hm hk =>
    refine .of_ready (genStep_wf h.memory) rfl hk (fun a ha => ?_) (pendingRecorded_respond_ok _ _)
    exact genStep_isSome (h.loadingPrefix hm a ha (by omega))
  | draws _ hm =>
    exact .of_ready (genStep_wf h.memory) hm (h.readyCount hm) (fun a ha => genStep_isSome (h.readyWhole hm a ha))
      (pendingRecorded_respond_ok _ _)
  | clears => exact .of_idle h.memory rfl (pendingRecorded_respond_ok _ _)

theorem Inv.of_hostStep {s t : State} (h : Inv s) (hs : hostStep s = .next t) : Inv t := by
  rcases hostStep_cases hs with ⟨-, rfl⟩ | ⟨w, rest, -, -, rfl⟩ | ⟨rest, -, rfl⟩ | ⟨rest, -, rfl⟩ |
    ⟨w, rest, -, -, rfl⟩
  · exact h
  · exact h.of_sameCore rfl rfl rfl h.pending
  · exact h.of_sameCore rfl rfl rfl (pendingRecorded_of_none rfl)
  · exact inv_powerOn _
  · exact inv_powerOn _

/-- Taking the word off the command port keeps the invariant. -/
theorem inv_takeCmd {s : State} (h : Inv s) : Inv { s with cmd := none } :=
  h.of_sameCore rfl rfl rfl h.pending

/-- Settles O45: reset is IDLE with an empty array and no response. -/
theorem invariantHoldsAtReset : Obligations.InvariantHoldsAtReset :=
  .of_idle rfl rfl (pendingRecorded_of_none rfl)

/-- Settles O46, by what the step can have done. -/
theorem everyStepKeepsTheInvariant : Obligations.EveryStepKeepsTheInvariant := by
  intro s t h hstep
  rcases step_next_cases hstep with rfl | ⟨i, hp⟩ | ⟨-, hs⟩
  · exact inv_raiseError (inv_takeCmd h) _
  · exact (inv_takeCmd h).of_performs hp
  · exact h.of_hostStep hs

end Sys2Proof.Machine
end

section
/-! SUPPORT. The free reset bytes of `S` never reach a response (10_state.md R29; 70_reset_and_hazards.md R106): where every
entry is written, reading does not depend on the draw, and the invariant has every entry written wherever one is read. -/

namespace Sys2Proof.Machine

/-! ## Reading a written array -/

/-- Every entry of `S` was written since the last reset. -/
def AllWritten (s : State) : Prop := ∀ a, a < 256 → (s.S.read? a).isSome

theorem allWritten_genStep {s : State} (h : AllWritten s) : AllWritten (genStep s).2 :=
  fun a ha => genStep_isSome (h a ha)

theorem readS_withDraw {s : State} (h : AllWritten s) (n : Nat) (a : Byte) :
    ({ s with draw := n } : State).readS a = s.readS a := by
  obtain ⟨v, hv⟩ := Option.isSome_iff_exists.mp (h a.toNat a.isLt)
  simp [State.readS, hv]

theorem swapS_withDraw {s : State} (h : AllWritten s) (n : Nat) (p q : Byte) :
    swapS p q { s with draw := n } = { swapS p q s with draw := n } := by
  simp only [swapS, readS_withDraw h n]
  rfl

/-- The state GenStep leaves is the swapped one, with the two counters moved (R63). -/
theorem genStep_snd (s : State) :
    (genStep s).2 = swapS (s.i + 1) (s.j + s.readS (s.i + 1))
      { s with i := s.i + 1, j := s.j + s.readS (s.i + 1) } := rfl

theorem genStep_snd_withDraw {s : State} (h : AllWritten s) (n : Nat) :
    (genStep { s with draw := n }).2 = { (genStep s).2 with draw := n } := by
  rw [genStep_snd, genStep_snd, readS_withDraw h n]
  exact swapS_withDraw (s := { s with i := s.i + 1, j := s.j + s.readS (s.i + 1) }) h n _ _

theorem genStep_fst_withDraw {s : State} (h : AllWritten s) (n : Nat) :
    (genStep { s with draw := n }).1 = (genStep s).1 := by
  simp only [genStep_out, genStep_snd_withDraw h n, readS_withDraw h n, readS_withDraw (allWritten_genStep h) n]

theorem drawCur_withDraw {s : State} (h : AllWritten s) (n : Nat) :
    drawCur { s with draw := n } = { drawCur s with draw := n } := by
  simp only [drawCur, genStep_snd_withDraw h n, genStep_fst_withDraw h n]

/-! ## Commands -/

/-- Only RD_S answers from the array, and only in READY. -/
theorem answer_withDraw {i : Instr} {s : State} (ha : allowed i s.mode = true) (h : s.mode = .ready → AllWritten s)
    (n : Nat) : answer i { s with draw := n } = answer i s := by
  cases i with
  | rdS a => exact readS_withDraw (h (by simpa [allowed] using ha)) n a
  | nop | keyBegin | keyByte | keyEnd | peek | advance | next | crypt | status | rdI | rdJ | rdKcnt | clear => rfl

theorem allowed_of_draws {i : Instr} {m : Mode} (hi : i = .advance ∨ i = .next ∨ ∃ p, i = .crypt p) (hm : m = .ready) :
    allowed i m = true := by
  subst hm
  rcases hi with rfl | rfl | ⟨p, rfl⟩ <;> rfl

/-- From a state that meets the invariant a command ends in the same way whatever the draw. -/
theorem performs_withDraw {i : Instr} {s t : State} (h : Inv s) (hp : Performs s i t) (n : Nat) :
    Performs { s with draw := n } i { t with draw := n } := by
  cases hp with
  | wrongMode ha => exact .wrongMode ha
  | wrongCount hm hk => exact .wrongCount hm hk
  | observes hi ha => exact answer_withDraw ha h.readyWhole n ▸ .observes hi ha
  | begins => exact .begins
  | stores hm hk => exact .stores hm hk
  | drops hm hk => exact .drops hm hk
  | primes hm hk =>
    have hall : AllWritten { s with i := 0, j := 0 } := fun a ha => h.loadingPrefix hm a ha (by omega)
    have hprimes := Performs.primes (s := { s with draw := n }) hm hk
    rwa [drawCur_withDraw hall] at hprimes
  | draws hi hm =>
    have hdraws := Performs.draws (s := { s with draw := n }) hi hm
    rwa [drawCur_withDraw (h.readyWhole hm), answer_withDraw (allowed_of_draws hi hm) h.readyWhole] at hdraws
  | clears => exact .clears

theorem performWord_withDraw {w : Word} {s t : State} (h : Inv s) (hp : performWord w s = .next t) (n : Nat) :
    performWord w { s with draw := n } = .next { t with draw := n } := by
  rcases performWord_cases w s with ⟨e, he, hw⟩ | ⟨i, u, hi, hw, hu⟩
  · rw [hw] at hp
    cases hp
    exact performWord_error he _
  · rw [hw] at hp
    cases hp
    exact (performWord_ok hi _).trans (exec_of_performs (performs_withDraw h hu n))

theorem performWord_ne_fault (w : Word) (s : State) (f : Fault) : performWord w s ≠ .fault f := by
  rcases performWord_cases w s with ⟨_, -, hw⟩ | ⟨_, _, -, hw, -⟩ <;> simp [hw]

/-! ## The host's moves -/

theorem hostStep_withDraw {s t : State} (h : hostStep s = .next t) (n : Nat) :
    ∃ m, hostStep { s with draw := n } = .next { t with draw := m } := by
  rcases hostStep_cases h with ⟨hh, rfl⟩ | ⟨w, rest, hh, hfree, rfl⟩ | ⟨rest, hh, rfl⟩ | ⟨rest, hh, rfl⟩ |
    ⟨w, rest, hh, hfree, rfl⟩
  · exact ⟨n, by simp [hostStep, hh]⟩
  · exact ⟨n, by simp only [hostStep, hh]; exact if_pos hfree⟩
  · exact ⟨n, by simp [hostStep, hh]⟩
  · exact ⟨n + 1, by simp [hostStep, hh, powerOn]⟩
  · exact ⟨n + 1, by simp only [hostStep, hh]; exact if_pos hfree⟩

/-- The host's move stops the machine only where it changes a held word (R105, U7). -/
theorem hostStep_fault {s : State} {f : Fault} (h : hostStep s = .fault f) :
    f = .commandChanged ∧ ∃ w rest, (s.host = .offer w :: rest ∨ s.host = .rstDuring w :: rest) ∧ portFree w s = false := by
  unfold hostStep at h
  split at h
  · cases h
  · rename_i w rest hh
    split at h <;> cases h
    rename_i hp
    exact ⟨rfl, w, rest, .inl hh, Bool.eq_false_iff.mpr hp⟩
  · cases h
  · cases h
  · rename_i w rest hh
    split at h <;> cases h
    rename_i hp
    exact ⟨rfl, w, rest, .inr hh, Bool.eq_false_iff.mpr hp⟩

theorem hostStep_of_changed {s : State} {w : Word} {rest : List HostMove}
    (hh : s.host = .offer w :: rest ∨ s.host = .rstDuring w :: rest) (hp : portFree w s = false) :
    hostStep s = .fault .commandChanged := by
  rcases hh with hh | hh <;> simp [hostStep, hh, hp]

/-- Settles O47: a command by `performWord_withDraw`; the host's moves look at the draw only to count resets. -/
theorem resetBytesNeverReachAResponse : Obligations.ResetBytesNeverReachAResponse := by
  intro s n h
  rcases step_cases s with ⟨w, hc, hr, hs⟩ | ⟨hport, hs⟩
  · have hs' := step_of_cmd (s := { s with draw := n }) hc hr
    rw [hs, hs']
    exact ⟨fun t ht => ⟨n, performWord_withDraw (inv_takeCmd h) ht n⟩,
      fun f hf => absurd hf (performWord_ne_fault w _ f)⟩
  · have hs' := step_of_host (s := { s with draw := n }) hport
    rw [hs, hs']
    refine ⟨fun t ht => hostStep_withDraw ht n, fun f hf => ?_⟩
    obtain ⟨rfl, w, rest, hh, hfree⟩ := hostStep_fault hf
    exact hostStep_of_changed (s := { s with draw := n }) hh hfree

end Sys2Proof.Machine
end

section
/-! SUPPORT. The array is a rearrangement of the key (10_state.md R25): a load puts the key bytes in order (20_memory.md R33),
and every draw only exchanges two entries. -/

namespace Sys2Proof.Machine

/-! ## Sessions of a key load -/

/-- One transaction of a command's own word (R44). -/
theorem transact_encode {i : Instr} {s t : State} {r : Response}
    (h : exec i { s with cmd := none, rsp := none } = .next t) (hr : t.rsp = some r) :
    transact (encode i) s = some (r, { t with rsp := none }) :=
  transact_of_performWord ((performWord_ok (decode_encode i) _).trans h) hr

/-- The state after the transaction of a stored key byte. -/
def keyByteStored (d : Byte) (s : State) : State :=
  { s.writeS (keyEntry s.kcount) d with kcount := countKeyByte s.kcount, cmd := none, rsp := none }

theorem transact_keyByte {s : State} (hm : s.mode = .loading) (hk : s.kcount.val < 256) (d : Byte) :
    transact (encode (.keyByte d)) s = some (⟨.ok, 0⟩, keyByteStored d s) :=
  transact_encode (exec_keyByte_store (s := { s with cmd := none, rsp := none }) hm hk d) rfl

theorem keyByteStored_kcount {s : State} (hk : s.kcount.val < 256) (d : Byte) :
    (keyByteStored d s).kcount.val = s.kcount.val + 1 := by
  simp only [keyByteStored, countKeyByte_val, if_pos hk]

theorem keyByteStored_readS {s : State} (hk : s.kcount.val < 256) (d a : Byte) :
    (keyByteStored d s).readS a = if a.toNat = s.kcount.val then d else s.readS a := by
  have hentry : a = keyEntry s.kcount ↔ a.toNat = s.kcount.val := by
    rw [← BitVec.toNat_inj, keyEntry_toNat hk]
  exact (readS_writeS s (keyEntry s.kcount) d a).trans (by simp only [hentry])

/-- Key bytes sent in LOADING, up to the 256th in all, land one after another from entry `kcount` on (R57). -/
theorem session_keyBytes (key : List Byte) (s : State) (hm : s.mode = .loading) (hk : s.kcount.val + key.length ≤ 256) :
    ∃ t, session (words (key.map .keyByte)) s = some (List.replicate key.length ⟨.ok, 0⟩, t) ∧
      t.mode = .loading ∧ t.kcount.val = s.kcount.val + key.length ∧ t.err = s.err ∧
      ∀ a : Byte, t.readS a =
        if s.kcount.val ≤ a.toNat ∧ a.toNat < s.kcount.val + key.length then key.getD (a.toNat - s.kcount.val) 0
        else s.readS a := by
  induction key generalizing s with
  | nil => exact ⟨s, rfl, hm, rfl, rfl, fun a => (if_neg (by simp)).symm⟩
  | cons d key ih =>
    rw [List.length_cons] at hk
    have hlt : s.kcount.val < 256 := by omega
    have hcount := keyByteStored_kcount hlt d
    obtain ⟨t, hs, htm, htk, hte, htr⟩ := ih (keyByteStored d s) hm (by omega)
    refine ⟨t, session_cons (transact_keyByte hm hlt d) hs, htm, by rw [List.length_cons]; omega, hte, fun a => ?_⟩
    rw [htr, hcount, keyByteStored_readS hlt, List.length_cons]
    rcases Nat.lt_trichotomy a.toNat s.kcount.val with ha | ha | ha
    · rw [if_neg (by omega), if_neg (by omega), if_neg (by omega)]
    · rw [if_neg (by omega), if_pos ha, if_pos (by omega), ha, Nat.sub_self, List.getD_cons_zero]
    · obtain ⟨k, hak⟩ : ∃ k, a.toNat = s.kcount.val + 1 + k := Nat.exists_eq_add_of_le ha
      by_cases hin : k < key.length
      · rw [if_pos (by omega), if_pos (by omega), show a.toNat - s.kcount.val = k + 1 by omega,
          List.getD_cons_succ, show a.toNat - (s.kcount.val + 1) = k by omega]
      · rw [if_neg (by omega), if_neg (by omega), if_neg (by omega)]

/-- KEY_BEGIN and up to 256 key bytes, from any state (R33, R56, R57). -/
theorem session_sendKey (s : State) {key : List Byte} (hk : key.length ≤ 256) :
    ∃ t, session (words (sendKey key)) s = some (List.replicate (key.length + 1) ⟨.ok, 0⟩, t) ∧
      t.mode = .loading ∧ t.kcount.val = key.length ∧ t.err = .ok ∧
      ∀ a : Byte, t.readS a = if a.toNat < key.length then key.getD a.toNat 0 else s.readS a := by
  have hbegin := transact_encode (exec_keyBegin { s with cmd := none, rsp := none }) rfl
  obtain ⟨t, hs, hm, hcount, herr, hread⟩ := session_keyBytes key
    { s with mode := .loading, kcount := 0, err := .ok, cmd := none, rsp := none } rfl (by simpa using hk)
  refine ⟨t, session_cons hbegin hs, hm, by simpa using hcount, herr, fun a => (hread a).trans ?_⟩
  simp only [Fin.val_zero, Nat.zero_le, true_and, Nat.zero_add, Nat.sub_zero]
  rfl

/-- LOADKEY of 256 bytes from any state: KEY_END primes (R59) a state `u` whose array is the key. -/
theorem session_loadKey (s : State) {key : List Byte} (hk : key.length = 256) :
    ∃ u : State, session (words (loadKey key)) s =
        some (List.replicate 258 ⟨.ok, 0⟩, { drawCur { u with i := 0, j := 0 } with mode := .ready }) ∧
      u.cmd = none ∧ u.rsp = none ∧ u.kcount.val = 256 ∧ u.err = .ok ∧
      ∀ a : Byte, u.readS a = key.getD a.toNat 0 := by
  obtain ⟨t, hs, hm, hcount, herr, hread⟩ := session_sendKey s hk.le
  have hend := transact_encode
    (exec_keyEnd_prime (s := { t with cmd := none, rsp := none }) hm (hcount.trans hk)) rfl
  refine ⟨{ t with cmd := none, rsp := none }, ?_, rfl, rfl, hcount.trans hk, herr, fun a => ?_⟩
  · rw [words_loadKey, session_snoc hs hend, hk, ← List.replicate_succ']
    rfl
  · exact (hread a).trans (if_pos (hk ▸ a.isLt))

/-! ## The multiset of the array -/

theorem contents_eq_map (s : State) : s.contents = identityKey.map s.readS := by
  simp [State.contents, identityKey]

theorem contents_congr {s t : State} (h : ∀ a, t.readS a = s.readS a) : t.contents = s.contents := by
  rw [State.contents, State.contents, funext h]

/-- The array of a loaded key is the key. -/
theorem contents_of_key {s : State} {key : List Byte} (hk : key.length = 256)
    (h : ∀ a : Byte, s.readS a = key.getD a.toNat 0) : s.contents = key := by
  apply List.ext_getElem
  · simp [State.contents, hk]
  · intro n hn hn'
    have hlt : n < 256 := hk ▸ hn'
    simp [State.contents, h, Nat.mod_eq_of_lt hlt, hn']

theorem mem_identityKey (a : Byte) : a ∈ identityKey :=
  List.mem_map.mpr ⟨a.toNat, List.mem_range.mpr a.isLt, BitVec.ofNat_toNat .. |>.trans (BitVec.setWidth_eq a)⟩

theorem nodup_identityKey : identityKey.Nodup := by
  refine List.Nodup.map_on (fun x hx y hy h => ?_) List.nodup_range
  rw [List.mem_range] at hx hy
  simpa [Nat.mod_eq_of_lt, hx, hy] using congrArg BitVec.toNat h

/-- An array read through a permutation of the indices has the same multiset. -/
theorem contents_perm_of_reindex {s t : State} (σ : Equiv.Perm Byte) (h : ∀ a, t.readS a = s.readS (σ a)) :
    t.contents.Perm s.contents := by
  have hindices : (identityKey.map σ).Perm identityKey := by
    refine (List.perm_ext_iff_of_nodup (nodup_identityKey.map σ.injective) nodup_identityKey).mpr fun a => ?_
    exact iff_of_true (List.mem_map.mpr ⟨σ.symm a, mem_identityKey _, σ.apply_symm_apply a⟩) (mem_identityKey a)
  have hmap := hindices.map s.readS
  rwa [List.map_map, show s.readS ∘ σ = t.readS from funext fun a => (h a).symm, ← contents_eq_map,
    ← contents_eq_map] at hmap

theorem swapS_contents_perm (p q : Byte) (s : State) : (swapS p q s).contents.Perm s.contents := by
  refine contents_perm_of_reindex (Equiv.swap p q) fun a => ?_
  rw [readS_swapS, Equiv.swap_apply_def]
  split_ifs <;> rfl

/-- A draw keeps the multiset of the array: GenStep only exchanges two entries (R63). -/
theorem drawCur_contents_perm (s : State) : (drawCur s).contents.Perm s.contents := by
  rw [contents_congr (t := drawCur s) (s := swapS (s.i + 1) (s.j + s.readS (s.i + 1)) s) fun _ => rfl]
  exact swapS_contents_perm _ _ _

/-! ## Steps from READY to READY -/

/-- A command that starts and ends in READY failed, observed, or drew. -/
theorem performs_contents_perm {i : Instr} {s t : State} (hs : s.mode = .ready) (hp : Performs s i t)
    (ht : t.mode = .ready) : t.contents.Perm s.contents := by
  cases hp with
  | wrongMode _ | observes _ _ => exact .of_eq (contents_congr fun _ => rfl)
  | draws _ _ => exact drawCur_contents_perm s
  | wrongCount hm _ | stores hm _ | drops hm _ | primes hm _ => simp [hs] at hm
  | begins | clears => cases ht

/-- A host move that ends in READY is no reset. -/
theorem hostStep_contents {s t : State} (h : hostStep s = .next t) (ht : t.mode = .ready) : t.contents = s.contents := by
  rcases hostStep_cases h with ⟨-, rfl⟩ | ⟨_, _, -, -, rfl⟩ | ⟨_, -, rfl⟩ | ⟨_, -, rfl⟩ | ⟨_, _, -, -, rfl⟩
  · rfl
  · exact contents_congr fun _ => rfl
  · exact contents_congr fun _ => rfl
  · cases ht
  · cases ht

/-- Settles O35: the load by `session_loadKey`, a step from READY to READY by what the step can have done. -/
theorem arrayStaysARearrangementOfTheKey : Obligations.ArrayStaysARearrangementOfTheKey := by
  refine ⟨fun s key hk => ?_, fun s t hs h ht => ?_⟩
  · obtain ⟨u, hload, -, -, -, -, hread⟩ := session_loadKey s hk
    have hkey : ({ u with i := 0, j := 0 } : State).contents = key := contents_of_key hk hread
    exact ⟨_, _, hload, rfl, hkey ▸ drawCur_contents_perm { u with i := 0, j := 0 }⟩
  · rcases step_next_cases h with rfl | ⟨i, hp⟩ | ⟨-, hhost⟩
    · exact .of_eq (contents_congr fun _ => rfl)
    · exact performs_contents_perm (s := { s with cmd := none }) hs hp ht
    · exact .of_eq (hostStep_contents hhost ht)

end Sys2Proof.Machine
end

section
/-! SUPPORT. Memory transfers (20_memory.md section 2): a key's bytes into the array in order (R33), and a command word over a
byte-serial transport (R34). -/

namespace Sys2Proof.Machine

/-- Settles O38, by `session_sendKey`: every response of the session is the one repeated. -/
theorem keyByteLandsAtItsOwnIndex : Obligations.KeyByteLandsAtItsOwnIndex := by
  intro s key hk
  obtain ⟨t, hs, hm, hcount, -, hread⟩ := session_sendKey s hk
  exact ⟨_, t, hs, fun _ => List.eq_of_mem_replicate, hm, hcount, hread⟩

end Sys2Proof.Machine

namespace Sys2Proof

/-! ## The byte-serial transport -/

/-- The bytes of a word in the order sent: bits 15:8, then bits 7:0. -/
theorem bytesOfWord_eq_ofNat (w : Word) :
    bytesOfWord w = [BitVec.ofNat 8 (w.toNat / 256), BitVec.ofNat 8 (w.toNat % 256)] := by
  have hhigh : w.extractLsb' 8 8 = BitVec.ofNat 8 (w.toNat / 256) := by
    rw [BitVec.extractLsb', Nat.shiftRight_eq_div_pow]
  have hlow : w.extractLsb' 0 8 = BitVec.ofNat 8 (w.toNat % 256) := by
    rw [← dataField_toNat, BitVec.ofNat_toNat, BitVec.setWidth_eq, dataField]
  rw [bytesOfWord, hhigh, hlow]

/-- The two bytes of a word, in the order sent, carry the word. -/
theorem wordOfBytes_extractLsb' (w : Word) : wordOfBytes (w.extractLsb' 8 8) (w.extractLsb' 0 8) = w := by
  rw [wordOfBytes, BitVec.extractLsb'_append_extractLsb'_eq_extractLsb' (show 8 = 0 + 8 from rfl)]
  exact BitVec.extractLsb'_eq_self

theorem decodeBytes_bytesOfWord_append (w : Word) (rest : List Byte) :
    decodeBytes (bytesOfWord w ++ rest) = (decode w).map (fun i => (i, rest)) := by
  rw [bytesOfWord, List.cons_append, List.cons_append, List.nil_append, decodeBytes, wordOfBytes_extractLsb']

/-- Settles O7, by the two bytes' values and their reassembly. -/
theorem byteSerialWordSendsHighByteFirst : Obligations.ByteSerialWordSendsHighByteFirst :=
  fun w rest => ⟨bytesOfWord_eq_ofNat w, decodeBytes_bytesOfWord_append w rest⟩

end Sys2Proof
end

section
/-! SUPPORT. The encoder and the decoder are inverse, and which words are legal (30_encoding.md R45 to R49), with the opcode
table (R46). -/

namespace Sys2Proof

open Machine (plainCommands identityKey mem_identityKey nodup_identityKey)

/-! ## The words that decode -/

/-- A word that decodes is put together from the decoded command's opcode, zero bits and operand (R45). -/
theorem encode_of_decode {w : Word} {i : Instr} (h : decode w = .ok i) : encode i = w := by
  obtain ⟨hop, hrsv, hdata⟩ := decode_ok h
  rw [encode, ← hop, ← hrsv, ← hdata, wordOfFields_fields]

theorem decode_eq_ok_iff {w : Word} {i : Instr} : decode w = .ok i ↔ encode i = w :=
  ⟨encode_of_decode, fun h => h ▸ decode_encode i⟩

theorem encode_injective : Function.Injective encode := fun i k h =>
  Except.ok.inj ((decode_encode i).symm.trans (h ▸ decode_encode k))

/-! ## R48 on the fields -/

/-- The opcodes of KEY_BYTE, CRYPT and RD_S, whose words carry an operand (R47, R48). -/
abbrev TakesOperand (op : BitVec 4) : Prop := op.toNat ∈ [0x2, 0x7, 0x9]

/-- R48's three clauses on the fields of a word: an assigned `op`, `rsv` zero, and `data` zero where `op` takes no operand. -/
def LegalFields (w : Word) : Prop :=
  (opField w).toNat ≤ 0xD ∧ rsvField w = 0 ∧ (TakesOperand (opField w) ∨ dataField w = 0)

theorem takesOperand_or_operand_eq_zero (i : Instr) : TakesOperand (opcode i) ∨ operand i = 0 := by
  cases i with
  | keyByte _ | crypt _ | rdS _ => exact .inl (by simp [TakesOperand, opcode])
  | nop | keyBegin | keyEnd | peek | advance | next | status | rdI | rdJ | rdKcnt | clear => exact .inr rfl

theorem legalFields_encode (i : Instr) : LegalFields (encode i) := by
  rw [LegalFields, encode, opField_wordOfFields, rsvField_wordOfFields, dataField_wordOfFields]
  exact ⟨Nat.le_of_lt_succ (opcode_lt i), rfl, takesOperand_or_operand_eq_zero i⟩

/-- Every assigned opcode is some command's, with the operand byte 0x00 (R46). -/
theorem exists_opcode_of_le : ∀ op : BitVec 4, op.toNat ≤ 0xD →
    ∃ i ∈ plainCommands ++ [.keyByte 0, .crypt 0, .rdS 0], opcode i = op ∧ operand i = 0 := by
  decide

/-- The opcodes that take an operand take every byte (R47). -/
theorem exists_command_of_operand {op : BitVec 4} (h : TakesOperand op) (data : Byte) :
    ∃ i, opcode i = op ∧ operand i = data := by
  have hop : op = 0x2 ∨ op = 0x7 ∨ op = 0x9 := by revert op; decide
  rcases hop with rfl | rfl | rfl
  · exact ⟨.keyByte data, rfl, rfl⟩
  · exact ⟨.crypt data, rfl, rfl⟩
  · exact ⟨.rdS data, rfl, rfl⟩

theorem exists_encode_of_legalFields {w : Word} (h : LegalFields w) : ∃ i, encode i = w := by
  obtain ⟨hop, hrsv, hdata⟩ := h
  obtain ⟨i, hi, hd⟩ : ∃ i, opcode i = opField w ∧ operand i = dataField w := by
    rcases hdata with htakes | hzero
    · exact exists_command_of_operand htakes _
    · obtain ⟨i, -, hi, hd⟩ := exists_opcode_of_le _ hop
      exact ⟨i, hi, hd.trans hzero.symm⟩
  exact ⟨i, by rw [encode, hi, hd, ← hrsv, wordOfFields_fields]⟩

/-- The decoder accepts exactly the words whose fields meet R48. -/
theorem decodes_iff_legalFields (w : Word) : (∃ i, decode w = .ok i) ↔ LegalFields w := by
  simp only [decode_eq_ok_iff]
  exact ⟨fun ⟨i, h⟩ => h ▸ legalFields_encode i, exists_encode_of_legalFields⟩

theorem legal_iff_legalFields (w : Word) : w.legal = true ↔ LegalFields w := by
  have hrsv : rsvField w = 0 ↔ w.toNat / 256 % 16 = 0 := by rw [← rsvField_toNat]; exact BitVec.toNat_inj.symm
  have hdata : dataField w = 0 ↔ w.toNat % 256 = 0 := by rw [← dataField_toNat]; exact BitVec.toNat_inj.symm
  simp only [Word.legal, Word.opAssigned, Word.rsvZero, Word.dataAllowed, Bool.and_eq_true, decide_eq_true_eq, and_assoc,
    LegalFields, TakesOperand, opField_toNat, hrsv, hdata]

theorem legal_iff_exists_encode (w : Word) : w.legal = true ↔ ∃ i, encode i = w := by
  simp only [legal_iff_legalFields, ← decodes_iff_legalFields, decode_eq_ok_iff]

theorem decode_error_of_not_legal {w : Word} (h : w.legal = false) : ∃ e, decode w = .error e := by
  cases hd : decode w with
  | error e => exact ⟨e, rfl⟩
  | ok i => exact absurd ((legal_iff_exists_encode w).mpr ⟨i, encode_of_decode hd⟩) (Bool.eq_false_iff.mp h)

/-! ## The number of legal words -/

/-- Every command once: the 11 without operand, and three with each of the 256 operand bytes. -/
def allCommands : List Instr :=
  plainCommands ++ (identityKey.map .keyByte ++ (identityKey.map .crypt ++ identityKey.map .rdS))

theorem mem_allCommands (i : Instr) : i ∈ allCommands := by
  cases i <;> simp [allCommands, plainCommands, mem_identityKey]

theorem nodup_allCommands : allCommands.Nodup := by
  have hplain : plainCommands.Nodup := by decide
  have hkeyByte := nodup_identityKey.map fun _ _ => Instr.keyByte.inj
  have hcrypt := nodup_identityKey.map fun _ _ => Instr.crypt.inj
  have hrdS := nodup_identityKey.map fun _ _ => Instr.rdS.inj
  refine hplain.append (hkeyByte.append (hcrypt.append hrdS ?_) ?_) ?_ <;> simp [List.Disjoint, plainCommands]

theorem length_allCommands : allCommands.length = 779 := by
  simp [allCommands, plainCommands, identityKey]

/-- The legal words are the encodings of all commands. -/
theorem legalWords_eq : Finset.univ.filter (fun w : Word => w.legal = true) = (allCommands.map encode).toFinset := by
  ext w
  simp [legal_iff_exists_encode, mem_allCommands]

/-! ## The opcode table -/

/-- Every row's pattern is an opcode with the other bits zero, and the mask leaves out `data` where the opcode takes an
operand. -/
theorem opcodeTable_row : ∀ r ∈ opcodeTable, r.pattern = wordOfFields (opField r.pattern) 0 0 ∧
    r.mask = if TakesOperand (opField r.pattern) then 0xFF00 else 0xFFFF := by
  decide

/-- Masking `data` out leaves the other two fields. -/
theorem wordOfFields_and_highByte (op rsv : BitVec 4) (data : Byte) :
    wordOfFields op rsv data &&& 0xFF00 = wordOfFields op rsv 0 := by
  have hmask : (0xFF00 : Word) = BitVec.allOnes 8 ++ 0#8 := rfl
  rw [wordOfFields, hmask, BitVec.and_append, BitVec.and_allOnes, BitVec.and_zero]
  rfl

theorem wordOfFields_inj {op op' rsv rsv' : BitVec 4} {data data' : Byte} :
    wordOfFields op rsv data = wordOfFields op' rsv' data' ↔ op = op' ∧ rsv = rsv' ∧ data = data' := by
  refine ⟨fun h => ⟨?_, ?_, ?_⟩, fun ⟨ho, hr, hd⟩ => by rw [ho, hr, hd]⟩
  · simpa using congrArg opField h
  · simpa using congrArg rsvField h
  · simpa using congrArg dataField h

/-- A row accepts the words with its opcode, zero `rsv` and, where the opcode takes no operand, zero `data`. -/
theorem accepts_iff {r : OpcodeRow} (hr : r ∈ opcodeTable) (w : Word) :
    r.accepts w = true ↔ opField w = opField r.pattern ∧ rsvField w = 0 ∧
      (TakesOperand (opField r.pattern) ∨ dataField w = 0) := by
  obtain ⟨hpattern, hmask⟩ := opcodeTable_row r hr
  rw [OpcodeRow.accepts, beq_iff_eq, hmask]
  generalize opField r.pattern = op at hpattern ⊢
  rw [hpattern]
  nth_rw 1 [← wordOfFields_fields w]
  by_cases htakes : TakesOperand op
  · rw [if_pos htakes, wordOfFields_and_highByte, wordOfFields_inj]
    simp only [htakes, true_or]
  · have hones : (0xFFFF : Word) = BitVec.allOnes 16 := rfl
    rw [if_neg htakes, hones, BitVec.and_allOnes, wordOfFields_inj]
    simp only [htakes, false_or]

/-- The table has one row for each command's opcode, named by its mnemonic (R46). -/
theorem opcodeTable_filter_opcode (i : Instr) :
    (opcodeTable.filter (fun r => opField r.pattern == opcode i)).map OpcodeRow.name = [mnemonic i] := by
  cases i <;> rfl

/-- Of the rows, the encoding of a command is accepted by those with its opcode. -/
theorem accepts_encode {r : OpcodeRow} (hr : r ∈ opcodeTable) (i : Instr) :
    r.accepts (encode i) = (opField r.pattern == opcode i) := by
  rw [Bool.eq_iff_iff, accepts_iff hr, beq_iff_eq, encode, opField_wordOfFields, rsvField_wordOfFields,
    dataField_wordOfFields]
  refine ⟨fun ⟨hop, _⟩ => hop.symm, fun hop => ⟨hop.symm, rfl, ?_⟩⟩
  rw [hop]
  exact takesOperand_or_operand_eq_zero i

theorem legalFields_of_accepts {r : OpcodeRow} (hr : r ∈ opcodeTable) {w : Word} (h : r.accepts w = true) :
    LegalFields w := by
  have hassigned : ∀ r ∈ opcodeTable, (opField r.pattern).toNat ≤ 0xD := by decide
  obtain ⟨hop, hrsv, hdata⟩ := (accepts_iff hr w).mp h
  exact ⟨hop ▸ hassigned r hr, hrsv, hop ▸ hdata⟩

/-! ## The statements -/

/-- Settles O1, by `decode_encode`. -/
theorem decodeOfEncodeIsTheCommand : Obligations.DecodeOfEncodeIsTheCommand := decode_encode

/-- Settles O2, by `encode_of_decode`. -/
theorem encodeOfDecodeIsTheWord : Obligations.EncodeOfDecodeIsTheWord := fun _ _ => encode_of_decode

/-- Settles O3: the words that decode are the encodings, and these are the words with legal fields. -/
theorem decoderAcceptsExactlyLegalWords : Obligations.DecoderAcceptsExactlyLegalWords := decodes_iff_legalFields

/-- Settles O4: the legal words are the encodings of the 779 commands, all different. -/
theorem exactlyManyLegalWords : Obligations.ExactlyManyLegalWords := by
  unfold Obligations.ExactlyManyLegalWords
  rw [legalWords_eq, List.toFinset_card_of_nodup (nodup_allCommands.map encode_injective), List.length_map,
    length_allCommands]

/-- Settles O5: an accepted word's fields are legal, and a decoded one is accepted by the rows with its command's opcode. -/
theorem decodeFollowsOpcodeTable : Obligations.DecodeFollowsOpcodeTable := by
  refine ⟨fun w i h => ?_, fun w e h => List.filter_eq_nil_iff.mpr fun r hr haccepts => ?_⟩
  · rw [← encode_of_decode h, List.filter_congr fun r hr => accepts_encode hr i, opcodeTable_filter_opcode]
  · obtain ⟨i, hi⟩ := (decodes_iff_legalFields w).mpr (legalFields_of_accepts hr haccepts)
    rw [h] at hi
    cases hi

/-- Settles O6: the seven legal words are encodings, and each of the others breaks one clause of R48. -/
theorem specWordsDecode : Obligations.SpecWordsDecode :=
  ⟨decode_encode .nop, decode_encode .keyBegin, decode_encode (.keyByte 7), decode_encode .keyEnd,
    decode_encode (.crypt 0x48), decode_encode (.rdS 5), decode_encode .clear, rfl, rfl, rfl⟩

end Sys2Proof
end

section
/-! SUPPORT. The port (30_encoding.md R44): an accepted illegal word (R89), a session's host moves carried out step by step (R39),
and the reset of log entry 18. -/

namespace Sys2Proof.Machine

/-! ## Illegal words -/

/-- Settles O10: an illegal word does not decode, and performing it raises ILLEGAL. -/
theorem illegalWordChangesOnlyErr : Obligations.IllegalWordChangesOnlyErr := by
  intro s w hcmd hrsp hw
  obtain ⟨e, he⟩ := decode_error_of_not_legal hw
  rw [step_of_cmd hcmd hrsp, performWord_error he]
  rfl

/-! ## The host's moves play no part in a command -/

theorem answer_withHost (i : Instr) (s : State) (moves : List HostMove) : answer i { s with host := moves } = answer i s := by
  cases i <;> rfl

/-- A command ends the same way whatever moves the host has pending. -/
theorem performs_withHost {i : Instr} {s t : State} (h : Performs s i t) (moves : List HostMove) :
    Performs { s with host := moves } i { t with host := moves } := by
  cases h with
  | wrongMode h => exact .wrongMode h
  | wrongCount hm hk => exact .wrongCount hm hk
  | observes hi ha => exact answer_withHost i s moves ▸ Performs.observes (s := { s with host := moves }) hi ha
  | begins => exact .begins
  | stores hm hk => exact .stores hm hk
  | drops hm hk => exact .drops hm hk
  | primes hm hk => exact .primes (s := { s with host := moves }) hm hk
  | draws hi hm => exact answer_withHost i s moves ▸ Performs.draws (s := { s with host := moves }) hi hm
  | clears => exact .clears

/-- A command answers, and leaves the command port as it was. -/
theorem performs_answers {i : Instr} {s t : State} (h : Performs s i t) : t.cmd = s.cmd ∧ ∃ r, t.rsp = some r := by
  cases h <;> exact ⟨rfl, _, rfl⟩

theorem performWord_withHost {w : Word} {s t : State} (h : performWord w s = .next t) (moves : List HostMove) :
    performWord w { s with host := moves } = .next { t with host := moves } := by
  rcases performWord_cases w s with ⟨e, he, hw⟩ | ⟨i, u, hi, hw, hu⟩
  · rw [hw] at h
    cases h
    exact performWord_error he _
  · rw [hw] at h
    cases h
    exact (performWord_ok hi _).trans (exec_of_performs (performs_withHost hu moves))

/-- Every performed word, legal or illegal, is answered, with the command port as it was. -/
theorem performWord_answers (w : Word) (s : State) :
    ∃ (t : State) (r : Response), performWord w s = .next t ∧ t.rsp = some r ∧ t.cmd = s.cmd := by
  rcases performWord_cases w s with ⟨_, -, hw⟩ | ⟨i, t, -, hw, hp⟩
  · exact ⟨_, _, hw, rfl, rfl⟩
  · obtain ⟨hcmd, r, hr⟩ := performs_answers hp
    exact ⟨t, r, hw, hr, hcmd⟩

/-! ## The host's moves while no command is accepted -/

theorem step_offer {s : State} (hwait : s.cmd = none ∨ s.rsp ≠ none) {w : Word} (hfree : portFree w s = true)
    (moves : List HostMove) :
    step { s with host := .offer w :: moves } = .next { s with cmd := some w, host := moves } :=
  (step_of_host (s := { s with host := .offer w :: moves }) hwait).trans (if_pos hfree)

theorem step_take {s : State} (hwait : s.cmd = none ∨ s.rsp ≠ none) (moves : List HostMove) :
    step { s with host := .take :: moves } = .next { s with rsp := none, host := moves } :=
  step_of_host (s := { s with host := .take :: moves }) hwait

theorem step_rst {s : State} (hwait : s.cmd = none ∨ s.rsp ≠ none) (moves : List HostMove) :
    step { s with host := .rst :: moves } = .next (powerOn { s with host := moves }) :=
  step_of_host (s := { s with host := .rst :: moves }) hwait

theorem step_rstDuring {s : State} (hwait : s.cmd = none ∨ s.rsp ≠ none) {w : Word} (hfree : portFree w s = true)
    (moves : List HostMove) :
    step { s with host := .rstDuring w :: moves } = .next (powerOn { s with cmd := none, host := moves }) :=
  (step_of_host (s := { s with host := .rstDuring w :: moves }) hwait).trans (if_pos hfree)

/-! ## One transaction at the port -/

/-- From an idle port, the moves offer and take and the step between them carry out the word's transaction (R44). -/
theorem run_transact (w : Word) {s : State} (hcmd : s.cmd = none) (hrsp : s.rsp = none) :
    ∃ r t, transact w s = some (r, t) ∧ t.cmd = none ∧ t.rsp = none ∧ ∀ k moves,
      core.run (k + 3) { s with host := .offer w :: .take :: moves } = core.run k { t with host := moves } := by
  obtain ⟨t, r, hperform, hr, htcmd⟩ := performWord_answers w { s with cmd := none, rsp := none }
  refine ⟨r, { t with rsp := none }, transact_of_performWord hperform hr, htcmd, rfl, fun k moves => ?_⟩
  have hoffer : step { s with host := .offer w :: .take :: moves } =
      .next (offerWord w { s with host := .take :: moves }) := by
    rw [step_offer (.inl hcmd) (portFree_iff.mpr (.inl hcmd)), offerWord, hrsp]
  have haccept : step (offerWord w { s with host := .take :: moves }) = .next { t with host := .take :: moves } :=
    (step_offerWord w _).trans (performWord_withHost hperform _)
  rw [core_run_succ _ hoffer, core_run_succ _ haccept, core_run_succ _ (step_take (.inl htcmd) _)]

/-- Settles O13, by induction on the words: each word's two moves are one transaction. -/
theorem portScriptCarriesOutTheSession : Obligations.PortScriptCarriesOutTheSession := by
  intro ws
  induction ws with
  | nil => exact fun s rest hcmd hrsp => ⟨[], s, rfl, rfl, hcmd, hrsp, rfl⟩
  | cons w ws ih =>
    intro s rest hcmd hrsp
    obtain ⟨r, u, htransact, hucmd, hursp, hrun⟩ := run_transact w hcmd hrsp
    obtain ⟨rs, t, hsession, hlength, htcmd, htrsp, hrest⟩ := ih u rest hucmd hursp
    refine ⟨r :: rs, t, session_cons htransact hsession, congrArg (· + 1) hlength, htcmd, htrsp, ?_⟩
    exact (hrun (3 * ws.length) (hostScript ws ++ rest)).trans hrest

/-! ## Reset behind an outstanding response -/

/-- Settles O54: both moves leave the reset state with the port free. -/
theorem resetDuringMoveBehindAResponseWithdrawsTheWord : Obligations.ResetDuringMoveBehindAResponseWithdrawsTheWord := by
  intro s w rest hrsp hcmd
  have hduring := step_rstDuring (.inr hrsp) (portFree_iff.mpr hcmd) rest
  have hrst := step_rst (s := { s with cmd := none }) (.inl rfl) rest
  exact ⟨hduring.trans hrst.symm, _, hduring, rfl, rfl, rfl, rfl, rfl, rfl, rfl, rfl, rfl, fun _ => rfl⟩

end Sys2Proof.Machine
end

section
/-! SUPPORT. Assembler text (30_encoding.md R51): the spelling of a word reads back as the word. -/

namespace Sys2Proof.Machine

/-! ## Tokens -/

/-- A character that the tokenizer only collects: no quote, no `;` and no blank. -/
def isPlain (c : Char) : Bool := c != '\'' && c != ';' && !isBlank c

theorem tokens_cons_plain {c : Char} (h : isPlain c = true) (cur cs : List Char) :
    tokens cur (c :: cs) = tokens (cur ++ [c]) cs := by
  simp only [isPlain, Bool.and_eq_true, bne_iff_ne, Bool.not_eq_true'] at h
  obtain ⟨⟨hquote, hsemi⟩, hblank⟩ := h
  rw [tokens]
  · simp [hsemi, hblank]
  · simp [hquote]

theorem tokens_append_plain {cs : List Char} (h : ∀ c ∈ cs, isPlain c = true) (cur rest : List Char) :
    tokens cur (cs ++ rest) = tokens (cur ++ cs) rest := by
  induction cs generalizing cur with
  | nil => simp
  | cons c cs ih =>
    rw [List.forall_mem_cons] at h
    rw [List.cons_append, tokens_cons_plain h.1, ih h.2, List.append_assoc, List.singleton_append]

/-- What the assembler keeps together as one token. -/
def IsToken (cs : List Char) : Prop := cs ≠ [] ∧ ∀ c ∈ cs, isPlain c = true

theorem tokens_token {cs : List Char} (h : IsToken cs) : tokens [] cs = [cs] := by
  have htokens := tokens_append_plain h.2 [] []
  rw [List.append_nil, List.nil_append] at htokens
  rw [htokens, tokens, if_neg h.1]

theorem tokens_token_blank {cs : List Char} (h : IsToken cs) (rest : List Char) :
    tokens [] (cs ++ ' ' :: rest) = cs :: tokens [] rest := by
  rw [tokens_append_plain h.2, List.nil_append, tokens]
  · simp [isBlank, h.1]
  · simp

/-! ## Numbers in hexadecimal -/

theorem isPlain_hexDigit : ∀ d < 16, isPlain (hexDigit d) = true := by decide

theorem hexValue_hexDigit : ∀ d < 16, hexValue (hexDigit d) = some d := by decide

theorem digitsValue_hexDigit {d : Nat} (h : d < 16) (acc : Nat) (cs : List Char) :
    digitsValue 16 hexValue acc (hexDigit d :: cs) = digitsValue 16 hexValue (acc * 16 + d) cs := by
  rw [digitsValue, hexValue_hexDigit d h]

theorem isToken_hex {cs : List Char} (h : ∀ c ∈ cs, isPlain c = true) : IsToken ('0' :: 'x' :: cs) :=
  ⟨List.cons_ne_nil _ _, List.forall_mem_cons.mpr ⟨rfl, List.forall_mem_cons.mpr ⟨rfl, h⟩⟩⟩

theorem isToken_hexByte (b : Byte) : IsToken (hexByte b) := by
  have hhigh := isPlain_hexDigit (b.toNat / 16) (by omega)
  have hlow := isPlain_hexDigit (b.toNat % 16) (by omega)
  exact isToken_hex (by simp [hhigh, hlow])

theorem isToken_hexWord (w : Word) : IsToken (hexWord w) := by
  have h3 := isPlain_hexDigit (w.toNat / 4096) (by omega)
  have h2 := isPlain_hexDigit (w.toNat / 256 % 16) (by omega)
  have h1 := isPlain_hexDigit (w.toNat / 16 % 16) (by omega)
  have h0 := isPlain_hexDigit (w.toNat % 16) (by omega)
  exact isToken_hex (by simp [h3, h2, h1, h0])

theorem numberValue_hexByte (b : Byte) : numberValue (hexByte b) = some b.toNat := by
  rw [hexByte, numberValue, digitsValue_hexDigit (by omega), digitsValue_hexDigit (by omega), digitsValue]
  congr 1
  omega

theorem numberValue_hexWord (w : Word) : numberValue (hexWord w) = some w.toNat := by
  rw [hexWord, numberValue, digitsValue_hexDigit (by omega), digitsValue_hexDigit (by omega),
    digitsValue_hexDigit (by omega), digitsValue_hexDigit (by omega), digitsValue]
  congr 1
  omega

/-! ## Operands -/

theorem byteOperand_hexByte (literal : Bool) (b : Byte) : byteOperand literal (hexByte b) = some b := by
  rw [byteOperand, numberValue_hexByte]
  · simp [b.isLt]
  · simp [hexByte]

theorem wordOperand_hexWord (w : Word) : wordOperand (hexWord w) = some w := by
  rw [wordOperand, numberValue_hexWord]
  simp [w.isLt]

/-! ## Lines -/

theorem isToken_mnemonic (i : Instr) : IsToken (mnemonic i).toList := by
  cases i <;> simp [IsToken, mnemonic, isPlain, isBlank]

theorem assembleLine_mnemonic {i : Instr} (h : i ∈ plainCommands) :
    assembleLine (mnemonic i).toList = some (encode i) := by
  have hname : plainCommand (mnemonic i).toList = some i := by revert i; decide
  rw [assembleLine, tokens_token (isToken_mnemonic i)]
  simp only [hname, Option.map_some]

theorem assembleLine_operand {i : Instr} {arg : List Char} (harg : IsToken arg)
    (hi : operandCommand (mnemonic i).toList arg = some i) :
    assembleLine ((mnemonic i).toList ++ ' ' :: arg) = some (encode i) := by
  have hname : (mnemonic i).toList ≠ ".word".toList := by cases i <;> simp [mnemonic]
  rw [assembleLine, tokens_token_blank (isToken_mnemonic i), tokens_token harg]
  simp only [hname, if_false, hi, Option.map_some]

theorem assembleLine_word (w : Word) : assembleLine (".word ".toList ++ hexWord w) = some w := by
  have hdirective : IsToken ".word".toList := by simp [IsToken, isPlain, isBlank]
  have hblank : ".word ".toList = ".word".toList ++ [' '] := by simp
  rw [hblank, List.append_assoc, List.singleton_append, assembleLine, tokens_token_blank hdirective,
    tokens_token (isToken_hexWord w)]
  simp only [if_true, wordOperand_hexWord]

theorem assembleLine_spellInstr (i : Instr) : assembleLine (spellInstr i) = some (encode i) := by
  cases i with
  | keyByte d | crypt d | rdS d =>
    refine assembleLine_operand (isToken_hexByte d) ?_
    simp [operandCommand, mnemonic, byteOperand_hexByte]
  | nop | keyBegin | keyEnd | peek | advance | next | status | rdI | rdJ | rdKcnt | clear =>
    exact assembleLine_mnemonic (by decide)

/-- Settles O8: a word that decodes is spelled as its command, any other as a number. -/
theorem spellingReadsBackAsTheWord : Obligations.SpellingReadsBackAsTheWord := by
  intro w
  cases hw : decode w with
  | ok i =>
    rw [spellWord, hw]
    exact (assembleLine_spellInstr i).trans (congrArg some (encode_of_decode hw))
  | error e =>
    rw [spellWord, hw]
    exact assembleLine_word w

end Sys2Proof.Machine
end

section
/-! SUPPORT. The words and the mode of a command rule (30_encoding.md R45 to R48, 60_exceptions.md R89, R94), and
a draw in the closed form of R64 (41_generator.md). -/

namespace Sys2Proof.Machine

/-! ## The words and the mode of a command -/

/-- Of an opcode's words, those that do not decode are answered ILLEGAL; so it is enough that every decoded one fits. -/
theorem refusesUnless_of_decode {op : BitVec 4} {fits : Word → Prop}
    (h : ∀ (w : Word) (i : Instr), opField w = op → decode w = .ok i → fits w) : RefusesUnless op fits := by
  intro s w hop hfits
  cases hw : decode w with
  | error e => exact performWord_error hw s
  | ok i => exact absurd (h w i hop hw) hfits

/-- Whatever the opcode, reserved bits that are not zero make a word illegal (R48). -/
theorem refusesUnless_rsvField (op : BitVec 4) : RefusesUnless op (fun w => rsvField w = 0) :=
  refusesUnless_of_decode fun _ _ _ hw => (decode_ok hw).2.1

theorem plainCommands_operand : ∀ k ∈ plainCommands, ¬ TakesOperand (opcode k) ∧ operand k = 0 := by
  decide

/-- The opcode of a command without operand has that command's word as its only legal one (R45, R48). -/
theorem refusesUnless_plain {k : Instr} (hk : k ∈ plainCommands) : RefusesUnless (opcode k) (fun w => w = encode k) := by
  obtain ⟨htakes, hoperand⟩ := plainCommands_operand k hk
  refine refusesUnless_of_decode fun w i hop hw => ?_
  have hopcode : opcode i = opcode k := (decode_ok hw).1.symm.trans hop
  have hzero : operand i = 0 := (takesOperand_or_operand_eq_zero i).resolve_left (hopcode ▸ htakes)
  rw [← encode_of_decode hw, encode, encode, hopcode, hzero, hoperand]

/-- A command's word, given as its high byte and its operand. -/
theorem decode_append_operand {i : Instr} {b : Byte} (hb : opcode i ++ 0#4 = b) : decode (b ++ operand i) = .ok i :=
  hb ▸ decode_encode i

/-- A command that R94's table allows in one mode only. -/
theorem onlyIn_of_allowed {m : Mode} {i : Instr} (h : ∀ m', allowed i m' = (m' == m)) : OnlyIn m i :=
  fun s hs => exec_not_allowed ((h s.mode).trans (beq_false_of_ne hs))

/-! ## A draw in closed form -/

theorem readS_swapS_first (h q : Byte) (s : State) : (swapS h q s).readS h = s.readS q := by
  rw [readS_swapS, if_pos rfl]

theorem readS_swapS_second (h q : Byte) (s : State) : (swapS h q s).readS q = s.readS h := by
  by_cases hqh : q = h
  · rw [hqh, readS_swapS_first]
  · rw [readS_swapS, if_neg hqh, if_pos rfl]

/-- GenStep leaves the generator that one call in R64's closed form leaves. -/
theorem genStep_gen (s : State) : (genStep s).2.gen = s.gen.call.2 := by
  have hread : (genStep s).2.readS = s.gen.call.2.S := funext fun a => readS_swapS _ _ s a
  rw [State.gen, hread]
  rfl

/-- GenStep yields the byte that one call in R64's closed form returns: after the swap the two summands stand exchanged. -/
theorem genStep_fst_eq_call (s : State) : (genStep s).1 = s.gen.call.1 := by
  simp only [genStep_out, genStep_readS]
  rw [readS_swapS_first, readS_swapS_second, BitVec.add_comm (s.readS _), readS_swapS]
  rfl

theorem drawCur_gen (s : State) : (drawCur s).gen = s.gen.call.2 := genStep_gen s

theorem drawCur_cur_eq_call (s : State) : (drawCur s).cur = s.gen.call.1 := genStep_fst_eq_call s

end Sys2Proof.Machine
end

section
/-! SUPPORT. Construction (40_construction.md): the three commands of a key load (R56, R57, R59), and a whole load with any
number of key bytes (R54, R60). -/

namespace Sys2Proof.Machine

/-! ## The three commands -/

/-- Settles O19, by KEY_BEGIN's word and its meaning. -/
theorem keyBeginOpensALoad : Obligations.KeyBeginOpensALoad :=
  ⟨decode_encode .keyBegin, refusesUnless_plain (k := .keyBegin) (by decide), exec_keyBegin⟩

/-- Settles O20, by the count: below 256 the byte is stored, from 256 on it is dropped. -/
theorem keyByteStoresTheNextKeyByte : Obligations.KeyByteStoresTheNextKeyByte := by
  refine ⟨fun d => decode_append_operand (i := .keyByte d) (by simp [opcode]), refusesUnless_rsvField _,
    fun d => onlyIn_of_allowed fun _ => rfl, fun d s hm => ?_⟩
  by_cases hk : s.kcount.val < 256
  · exact ⟨_, exec_keyByte_store hm hk d, fun _ => ⟨keyByteStored_kcount hk d, keyByteStored_readS hk d⟩,
      fun hge => absurd hk (Nat.not_lt.mpr hge), rfl, rfl, rfl, hm, rfl, rfl, rfl, rfl, rfl⟩
  · exact ⟨_, exec_keyByte_drop hm hk d, fun hlt => absurd hlt hk,
      fun _ => ⟨(countKeyByte_val s.kcount).trans (if_neg hk), fun _ => rfl⟩,
      rfl, rfl, rfl, hm, rfl, rfl, rfl, rfl, rfl⟩

/-- Settles O21: the priming draw is one call of the generator that starts on the array with both counters at 0. -/
theorem keyEndChecksTheCountAndPrimes : Obligations.KeyEndChecksTheCountAndPrimes := by
  refine ⟨decode_encode .keyEnd, refusesUnless_plain (k := .keyEnd) (by decide), onlyIn_of_allowed fun _ => rfl,
    fun s hm hk => ?_, fun s hm hk => exec_keyEnd_count hm hk⟩
  exact ⟨_, exec_keyEnd_prime hm hk, drawCur_gen { s with i := 0, j := 0 },
    drawCur_cur_eq_call { s with i := 0, j := 0 }, rfl, BitVec.zero_add _, rfl, rfl, rfl, rfl, rfl, rfl, rfl⟩

/-! ## A load of any length -/

/-- `t` is LOADING, `n` key bytes after `s`: they were counted, up to 257 (R19, R57), and `err`, `i`, `j` and
`cur` are as in `s`. -/
structure LoadedOn (n : Nat) (s t : State) : Prop where
  mode : t.mode = .loading
  kcount : t.kcount.val = min (s.kcount.val + n) 257
  err : t.err = s.err
  i : t.i = s.i
  j : t.j = s.j
  cur : t.cur = s.cur

theorem LoadedOn.refl {s : State} (hm : s.mode = .loading) : LoadedOn 0 s s :=
  ⟨hm, (min_eq_left (Nat.le_of_lt_succ s.kcount.isLt)).symm, rfl, rfl, rfl, rfl⟩

theorem LoadedOn.trans {m n : Nat} {s t u : State} (h : LoadedOn m s t) (h' : LoadedOn n t u) : LoadedOn (n + m) s u where
  mode := h'.mode
  kcount := by rw [h'.kcount, h.kcount]; omega
  err := h'.err.trans h.err
  i := h'.i.trans h.i
  j := h'.j.trans h.j
  cur := h'.cur.trans h.cur

/-- One key byte in LOADING, stored or dropped. -/
theorem transact_keyByte_loadedOn {s : State} (hm : s.mode = .loading) (d : Byte) :
    ∃ t, transact (encode (.keyByte d)) s = some (⟨.ok, 0⟩, t) ∧ LoadedOn 1 s t := by
  obtain ⟨-, -, -, hexec⟩ := keyByteStoresTheNextKeyByte
  obtain ⟨t, ht, hstore, hdrop, hi, hj, hcur, hmode, herr, hrsp, -⟩ := hexec d { s with cmd := none, rsp := none } hm
  have hcount : t.kcount.val = min (s.kcount.val + 1) 257 := by
    rcases Nat.lt_or_ge s.kcount.val 256 with hlt | hge
    · have hk : t.kcount.val = s.kcount.val + 1 := (hstore hlt).1
      omega
    · have hk : t.kcount.val = 257 := (hdrop hge).1
      omega
  exact ⟨_, transact_encode ht hrsp, hmode, hcount, herr, hi, hj, hcur⟩

/-- Key bytes sent in LOADING, however many (R57). -/
theorem session_keyBytes_loadedOn (key : List Byte) {s : State} (hm : s.mode = .loading) :
    ∃ t, session (words (key.map .keyByte)) s = some (List.replicate key.length ⟨.ok, 0⟩, t) ∧
      LoadedOn key.length s t := by
  induction key generalizing s with
  | nil => exact ⟨s, rfl, .refl hm⟩
  | cons d key ih =>
    obtain ⟨t, htransact, ht⟩ := transact_keyByte_loadedOn hm d
    obtain ⟨u, hsession, hu⟩ := ih ht.mode
    exact ⟨u, session_cons htransact hsession, ht.trans hu⟩

/-- KEY_BEGIN and any number of key bytes, from any state (R56, R57). -/
theorem session_sendKey_loadedOn (key : List Byte) (s : State) :
    ∃ t, session (words (sendKey key)) s = some (List.replicate (key.length + 1) ⟨.ok, 0⟩, t) ∧
      LoadedOn key.length { s with mode := .loading, kcount := 0, err := .ok, cmd := none, rsp := none } t := by
  have hbegin := transact_encode (exec_keyBegin { s with cmd := none, rsp := none }) rfl
  obtain ⟨t, hsession, ht⟩ := session_keyBytes_loadedOn key
    (s := { s with mode := .loading, kcount := 0, err := .ok, cmd := none, rsp := none }) rfl
  exact ⟨t, session_cons hbegin hsession, ht⟩

theorem session_loadKey_of_sendKey {key : List Byte} {s t u : State} {rs : List Response} {r : Response}
    (hsend : session (words (sendKey key)) s = some (rs, t)) (hend : transact (encode .keyEnd) t = some (r, u)) :
    session (words (loadKey key)) s = some (rs ++ [r], u) := by
  rw [words_loadKey]
  exact session_snoc hsend hend

/-- Settles O39: before KEY_END the bytes were counted, up to 257, and KEY_END succeeds on the count 256 alone. -/
theorem constructionSucceedsExactlyOn256Bytes : Obligations.ConstructionSucceedsExactlyOn256Bytes := by
  intro s key
  obtain ⟨t, hsend, ht⟩ := session_sendKey_loadedOn key s
  have hcount : t.kcount.val = min key.length 257 := ht.kcount.trans (by rw [Fin.val_zero, Nat.zero_add])
  by_cases hk : key.length = 256
  · have hend := transact_encode
      (exec_keyEnd_prime (s := { t with cmd := none, rsp := none }) ht.mode (hcount.trans (by omega))) rfl
    exact ⟨_, _, _, session_loadKey_of_sendKey hsend hend, fun _ => List.eq_of_mem_replicate,
      iff_of_true rfl hk, rfl, fun _ => ⟨rfl, ht.err⟩, fun hne => absurd hk hne⟩
  · have hne : t.kcount.val ≠ 256 := by omega
    have hend := transact_encode (exec_keyEnd_count (s := { t with cmd := none, rsp := none }) ht.mode hne) rfl
    exact ⟨_, _, _, session_loadKey_of_sendKey hsend hend, fun _ => List.eq_of_mem_replicate,
      iff_of_false Code.noConfusion hk, rfl, fun h256 => absurd h256 hk,
      fun _ => ⟨rfl, rfl, rfl, hcount, ht.i, ht.j, ht.cur⟩⟩

/-! ## The first byte of the keystream -/

/-- On an array that is the key, with both counters at 0, a state holds the source's generator right after construction. -/
theorem gen_eq_ofKey {s : State} {key : List Byte} (h : ∀ a : Byte, s.readS a = key.getD a.toNat 0) :
    ({ s with i := 0, j := 0 } : State).gen = Gen.ofKey key :=
  congrArg (fun f => Gen.mk f 0 0) (funext h)

/-- Settles O40: KEY_END's draw is the first call of the generator that the loaded array holds. -/
theorem afterKeyEndTheFirstByteIsDrawn : Obligations.AfterKeyEndTheFirstByteIsDrawn := by
  intro s key hk
  obtain ⟨u, hload, -, -, -, -, hread⟩ := session_loadKey s hk
  have hgen := gen_eq_ofKey hread
  exact ⟨_, _, hload, rfl, (drawCur_cur_eq_call _).trans (congrArg (fun g => g.call.1) hgen),
    (drawCur_gen _).trans (congrArg (fun g => g.call.2) hgen)⟩

end Sys2Proof.Machine
end

section
/-! SUPPORT. The generation step (41_generator.md): its closed form on the state (R64) and its sums (R65); the source's
generator and a run of drawing commands after a load, which follow one another call by call (R70), and what that gives of
the keystream's bytes (R67) and of two runs (R66). -/

namespace Sys2Proof.Machine

/-! ## One GenStep -/

/-- An entry that is neither of the two exchanged ones is left. -/
theorem readS_swapS_of_ne {h q a : Byte} (hh : a ≠ h) (hq : a ≠ q) (s : State) : (swapS h q s).readS a = s.readS a := by
  rw [readS_swapS, if_neg hh, if_neg hq]

/-- Exchanging an entry with itself leaves all. -/
theorem readS_swapS_of_eq {h q : Byte} (hhq : h = q) (s : State) (a : Byte) : (swapS h q s).readS a = s.readS a := by
  subst hhq
  by_cases hh : a = h
  · rw [hh, readS_swapS_first]
  · exact readS_swapS_of_ne hh hh s

/-- Settles O33: the byte is that of one call in closed form, and the array is the swapped one. -/
theorem genStepHasTheClosedForm : Obligations.GenStepHasTheClosedForm := by
  intro s h q w t
  exact ⟨genStep_fst_eq_call s, readS_swapS_first h q s, readS_swapS_second h q s,
    fun a hh hq => readS_swapS_of_ne hh hq s, fun hhq a => readS_swapS_of_eq hhq s a, rfl, rfl, rfl⟩

/-- Settles O34: `+` on bytes is addition modulo 256. -/
theorem genStepSumsAreModulo256 : Obligations.GenStepSumsAreModulo256 := by
  refine ⟨fun s => ?_, fun s hi => ?_, rfl⟩
  · have hcounter : s.i + 1 = BitVec.ofNat 8 ((s.i.toNat + 1) % 256) := by bv_omega
    rw [genStep_i, genStep_j, ← hcounter]
    exact ⟨BitVec.toNat_add _ _, BitVec.toNat_add _ _⟩
  · rw [genStep_i, hi]
    rfl

end Sys2Proof.Machine

/-! ## The source's generator -/

namespace Sys2Proof

/-- `n + 1` calls are `n` calls and one more. -/
theorem Gen.after_succ (n : Nat) (g : Gen) : g.after (n + 1) = (g.after n).call.2 := by
  induction n generalizing g with
  | zero => rfl
  | succ n ih => exact ih g.call.2

/-- A call returns one of the entries. -/
theorem Gen.call_fst_eq_entry (g : Gen) : ∃ a, g.call.1 = g.S a := by
  simp only [Gen.call]
  split_ifs <;> exact ⟨_, rfl⟩

/-- A call puts no new byte into the array: each entry it leaves is one of the entries before. -/
theorem Gen.call_snd_eq_entry (g : Gen) (a : Byte) : ∃ b, g.call.2.S a = g.S b := by
  simp only [Gen.call]
  split_ifs <;> exact ⟨_, rfl⟩

/-- What holds of every byte of the array holds of every byte of the keystream. -/
theorem Gen.forall_keystream {P : Byte → Prop} {g : Gen} (h : ∀ a, P (g.S a)) (n : Nat) : P (g.keystream n) := by
  induction n generalizing g with
  | zero =>
    obtain ⟨a, ha⟩ := g.call_fst_eq_entry
    rw [Gen.keystream, Gen.after, ha]
    exact h a
  | succ n ih =>
    refine ih (g := g.call.2) fun a => ?_
    obtain ⟨b, hb⟩ := g.call_snd_eq_entry a
    rw [hb]
    exact h b

/-- R67: every keystream byte of a key is one of its bytes. -/
theorem Gen.keystream_ofKey_mem {key : List Byte} (hk : key.length = 256) (n : Nat) :
    (Gen.ofKey key).keystream n ∈ key := by
  refine Gen.forall_keystream (P := (· ∈ key)) (fun a => ?_) n
  have ha : a.toNat < key.length := hk ▸ a.isLt
  have hentry : (Gen.ofKey key).S a = key[a.toNat] := List.getD_eq_getElem key 0 ha
  exact hentry ▸ List.getElem_mem ha

end Sys2Proof

namespace Sys2Proof.Machine

/-! ## Drawing commands after a load -/

/-- The data byte a drawing command answers when the current byte is `c`: ADVANCE 0x00, NEXT `c`, CRYPT `d` the byte
`d XOR c` (R73, R74, R76). -/
def drawAnswer : Instr → Byte → Byte
  | .next, c => c
  | .crypt d, c => d ^^^ c
  | _, _ => 0

theorem answer_of_isDraw {i : Instr} (hi : isDraw i = true) (s : State) : answer i s = drawAnswer i s.cur := by
  rcases isDraw_iff.mp hi with rfl | rfl | ⟨d, rfl⟩ <;> rfl

/-- The core is READY with the byte number `n` of the generator `g` in `cur`, and holds the generator after the call that
returned it (R70). -/
structure Drawn (g : Gen) (n : Nat) (s : State) : Prop where
  mode : s.mode = .ready
  cur : s.cur = g.keystream n
  gen : s.gen = g.after (n + 1)

/-- A drawing command in READY answers from the current byte and draws the following one. -/
theorem transact_draw {g : Gen} {n : Nat} {s : State} (h : Drawn g n s) {i : Instr} (hi : isDraw i = true) :
    ∃ t, transact (encode i) s = some (⟨.ok, drawAnswer i (g.keystream n)⟩, t) ∧ Drawn g (n + 1) t := by
  have hdraws := exec_of_performs (.draws (s := { s with cmd := none, rsp := none }) (isDraw_iff.mp hi) h.mode)
  have hcur : s.gen.call.1 = g.keystream (n + 1) := congrArg (fun g' => g'.call.1) h.gen
  have hgen : s.gen.call.2 = g.after (n + 2) := by rw [h.gen, ← Gen.after_succ]
  rw [answer_of_isDraw hi] at hdraws
  rw [← h.cur]
  exact ⟨_, transact_encode hdraws rfl, h.mode, (drawCur_cur_eq_call _).trans hcur, (drawCur_gen _).trans hgen⟩

/-- Drawing commands in READY, in any mix: the `k`-th answers from the byte number `n + k`. -/
theorem session_draws {g : Gen} {n : Nat} {s : State} (h : Drawn g n s) {ds : List Instr}
    (hds : ∀ i ∈ ds, isDraw i = true) :
    ∃ t, session (words ds) s = some (ds.mapIdx fun k i => ⟨.ok, drawAnswer i (g.keystream (n + k))⟩, t) ∧
      Drawn g (n + ds.length) t := by
  induction ds generalizing n s with
  | nil => exact ⟨s, rfl, h⟩
  | cons i ds ih =>
    obtain ⟨hi, hds⟩ := List.forall_mem_cons.mp hds
    obtain ⟨t, htransact, ht⟩ := transact_draw h hi
    obtain ⟨u, hsession, hu⟩ := ih ht hds
    have hshift (k : Nat) : n + 1 + k = n + (k + 1) := by omega
    simp only [hshift] at hsession hu
    exact ⟨u, List.mapIdx_cons ▸ session_cons htransact hsession, hu⟩

/-- LOADKEY of 256 bytes and then drawing commands, from any state: the `k`-th draw answers from the byte number `k` of the
key's keystream (R60, R70). -/
theorem session_loadKey_draws (s : State) {key : List Byte} (hk : key.length = 256) {ds : List Instr}
    (hds : ∀ i ∈ ds, isDraw i = true) :
    ∃ t, session (words (loadKey key ++ ds)) s =
        some (List.replicate 258 ⟨.ok, 0⟩ ++ ds.mapIdx fun k i => ⟨.ok, drawAnswer i ((Gen.ofKey key).keystream k)⟩, t) ∧
      Drawn (Gen.ofKey key) ds.length t := by
  obtain ⟨u, hload, -, -, -, -, hread⟩ := session_loadKey s hk
  have hgen := gen_eq_ofKey hread
  have hdrawn : Drawn (Gen.ofKey key) 0 { drawCur { u with i := 0, j := 0 } with mode := .ready } :=
    ⟨rfl, (drawCur_cur_eq_call _).trans (congrArg (fun g => g.call.1) hgen),
      (drawCur_gen _).trans (congrArg (fun g => g.call.2) hgen)⟩
  obtain ⟨t, hdraws, ht⟩ := session_draws hdrawn hds
  simp only [Nat.zero_add] at hdraws ht
  exact ⟨t, by rw [words_append, session_append hload, hdraws]; rfl, ht⟩

/-! ## The bytes of the keystream, and two runs -/

theorem readS_mem_contents (s : State) (a : Byte) : s.readS a ∈ s.contents :=
  contents_eq_map s ▸ List.mem_map_of_mem (mem_identityKey a)

/-- Settles O36: a call returns an entry and puts no new byte into the array; after a load and draws `cur` is a keystream
byte of the key. -/
theorem everyKeystreamByteIsAKeyByte : Obligations.EveryKeystreamByteIsAKeyByte := by
  refine ⟨fun s => ?_, fun s key ds hk hds => ?_, fun key n hk => Gen.keystream_ofKey_mem hk n, fun v n => ?_⟩
  · obtain ⟨a, ha⟩ := s.gen.call_fst_eq_entry
    rw [genStep_fst_eq_call, ha]
    exact readS_mem_contents s a
  · obtain ⟨t, hsession, ht⟩ := session_loadKey_draws s hk hds
    exact ⟨_, t, hsession, ht.cur ▸ Gen.keystream_ofKey_mem hk _⟩
  · exact List.eq_of_mem_replicate (Gen.keystream_ofKey_mem List.length_replicate n)

/-- `(S, i, j)` field by field. -/
theorem gen_congr {s s' : State} (hS : ∀ a, s.readS a = s'.readS a) (hi : s.i = s'.i) (hj : s.j = s'.j) :
    s.gen = s'.gen := by
  rw [State.gen, State.gen, funext hS, hi, hj]

/-- Settles O37: GenStep is a call of the generator the state holds, and both runs stand at the same call of the key's. -/
theorem sameKeyAndDrawsGiveTheSameGenerator : Obligations.SameKeyAndDrawsGiveTheSameGenerator := by
  refine ⟨fun s s' hS hi hj => ?_, fun s s' key ds ds' hk hlen hds hds' => ?_⟩
  · simp only [genStep_fst_eq_call, genStep_gen, gen_congr hS hi hj, and_self]
  · obtain ⟨t, hsession, ht⟩ := session_loadKey_draws s hk hds
    obtain ⟨t', hsession', ht'⟩ := session_loadKey_draws s' hk hds'
    rw [← hlen] at ht'
    refine ⟨_, t, _, t', hsession, hsession', ht.gen.trans ht'.gen.symm, ht.cur.trans ht'.cur.symm, ?_⟩
    rintro rfl
    rfl

end Sys2Proof.Machine
end

section
/-! SUPPORT. The byte sequence (42_sequence.md): the commands that read and draw the current byte (R72 to R74), and the
keystream numbered by the draws since KEY_END (R70). -/

namespace Sys2Proof

/-- Each call counts the position counter up by one, modulo 256 (R63). -/
theorem Gen.after_i_toNat (n : Nat) (g : Gen) : (g.after n).i.toNat = (g.i.toNat + n) % 256 := by
  induction n with
  | zero => exact (Nat.mod_eq_of_lt g.i.isLt).symm
  | succ n ih =>
    have hcall : (g.after n).call.2.i = (g.after n).i + 1 := rfl
    rw [Gen.after_succ, hcall, BitVec.toNat_add, ih]
    exact Nat.mod_add_mod _ 256 1

end Sys2Proof

namespace Sys2Proof.Machine

/-! ## The three commands -/

/-- A draw that answers with `d` is one call of the generator the state holds, its byte in `cur`, and leaves the rest. -/
theorem drawsAnswering_drawCur (d : Byte) (s : State) : DrawsAnswering d s (respond .ok d (drawCur s)) :=
  ⟨drawCur_gen s, drawCur_cur_eq_call s, rfl, rfl, rfl, rfl, rfl, rfl, rfl⟩

/-- Settles O22, by PEEK's word, its mode and its meaning in READY. -/
theorem peekReturnsTheCurrentByte : Obligations.PeekReturnsTheCurrentByte :=
  ⟨decode_encode .peek, refusesUnless_plain (k := .peek) (by decide), onlyIn_of_allowed fun _ => rfl,
    fun _ hm => exec_peek hm⟩

/-- Settles O23: ADVANCE in READY is a draw that answers 0x00. -/
theorem advanceDrawsTheNextByte : Obligations.AdvanceDrawsTheNextByte :=
  ⟨decode_encode .advance, refusesUnless_plain (k := .advance) (by decide), onlyIn_of_allowed fun _ => rfl,
    fun s hm => ⟨_, exec_advance hm, drawsAnswering_drawCur 0 s⟩⟩

/-- Settles O24: NEXT in READY is a draw that answers the current byte from before it. -/
theorem nextReturnsThenDraws : Obligations.NextReturnsThenDraws :=
  ⟨decode_encode .next, refusesUnless_plain (k := .next) (by decide), onlyIn_of_allowed fun _ => rfl,
    fun s hm => ⟨_, exec_next hm, drawsAnswering_drawCur s.cur s⟩⟩

/-! ## The numbered keystream -/

/-- The position counter counts the calls of the generator: KEY_END's and one for each drawing command since (R70). -/
theorem Drawn.i_toNat {g : Gen} {n : Nat} {s : State} (h : Drawn g n s) : s.i.toNat = (g.i.toNat + (n + 1)) % 256 := by
  have hi : s.i = (g.after (n + 1)).i := congrArg Gen.i h.gen
  rw [hi, Gen.after_i_toNat]

/-- Settles O41: the load and the draws end with byte number `m` drawn, and a key's generator starts counting at 0. -/
theorem keystreamIsNumberedByDraws : Obligations.KeystreamIsNumberedByDraws := by
  intro s key ds hk hds
  obtain ⟨t, hsession, ht⟩ := session_loadKey_draws s hk hds
  have hstart : (Gen.ofKey key).i.toNat = 0 := rfl
  have hcount := ht.i_toNat
  rw [hstart, Nat.zero_add] at hcount
  exact ⟨_, t, hsession, ht.mode, ht.cur, ht.gen, hcount⟩

end Sys2Proof.Machine
end

section
/-! SUPPORT. Stream operations (43_stream_ops.md): CRYPT (R76), and the source's keystream and crypt as runs of commands
(R77 to R79). -/

namespace Sys2Proof.Machine

/-! ## CRYPT -/

/-- In READY both draw and answer the current byte, elsewhere both fail (R76). -/
theorem exec_crypt_zero (s : State) : exec (.crypt 0) s = exec .next s := by
  by_cases hm : s.mode = .ready
  · rw [exec_crypt hm, exec_next hm]
    exact congrArg (fun d => Host.Outcome.next (respond .ok d (drawCur s))) BitVec.zero_xor
  · have hcrypt : OnlyIn .ready (.crypt 0) := onlyIn_of_allowed fun _ => rfl
    have hnext : OnlyIn .ready .next := onlyIn_of_allowed fun _ => rfl
    exact (hcrypt s hm).trans (hnext s hm).symm

/-- Settles O25: CRYPT in READY is a draw that answers its operand XOR the current byte from before it. -/
theorem cryptXorsThenDraws : Obligations.CryptXorsThenDraws := by
  refine ⟨fun d => decode_append_operand (i := .crypt d) (by simp [opcode]), refusesUnless_rsvField _,
    fun d => onlyIn_of_allowed fun _ => rfl, fun d s hm => ?_, exec_crypt_zero⟩
  refine ⟨_, exec_crypt hm d, drawsAnswering_drawCur (d ^^^ s.cur) s, ?_⟩
  rintro rfl
  exact congrArg (fun d => some (Response.mk .ok d)) BitVec.xor_self

/-! ## A run of NEXT -/

/-- The answers to drawing commands after LOADKEY, the load's own 258 responses left out (R70). -/
theorem loadKey_draws_answers (s : State) {key : List Byte} (hk : key.length = 256) {ds : List Instr}
    (hds : ∀ i ∈ ds, isDraw i = true) :
    ∃ rs t, session (words (loadKey key ++ ds)) s = some (rs, t) ∧
      rs.drop 258 = ds.mapIdx fun k i => ⟨.ok, drawAnswer i ((Gen.ofKey key).keystream k)⟩ := by
  obtain ⟨t, hsession, -⟩ := session_loadKey_draws s hk hds
  exact ⟨_, t, hsession, List.drop_left' List.length_replicate⟩

/-- Settles O42: the `k`-th of the draws after the load is a NEXT and answers byte number `k`. -/
theorem keystreamRunReturnsTheFirstBytes : Obligations.KeystreamRunReturnsTheFirstBytes := by
  intro s key n hk
  have hdraws : ∀ i ∈ keystreamCmds n, isDraw i = true := fun _ hi => List.eq_of_mem_replicate hi ▸ rfl
  obtain ⟨rs, t, hsession, hanswers⟩ := loadKey_draws_answers s hk hdraws
  refine ⟨rs, t, hsession, hanswers.trans ?_⟩
  apply List.ext_getElem <;> simp [keystreamCmds, drawAnswer]

/-! ## A run of CRYPT -/

/-- The source's `crypt(input, key)`: each byte XOR the keystream byte of its position (R76, R77). -/
def cryptBytes (key ps : List Byte) : List Byte := ps.mapIdx fun n p => p ^^^ (Gen.ofKey key).keystream n

/-- XOR with the same keystream byte twice gives the byte back (R78). -/
theorem cryptBytes_cryptBytes (key ps : List Byte) : cryptBytes key (cryptBytes key ps) = ps := by
  apply List.ext_getElem <;> simp [cryptBytes, xor_cancel_right]

/-- The CRYPTs after LOADKEY of 256 bytes answer, from any state, the source's `crypt` of their operands. -/
theorem loadKey_crypts_answers (s : State) {key : List Byte} (hk : key.length = 256) (ps : List Byte) :
    ∃ rs t, session (words (loadKey key ++ cryptCmds ps)) s = some (rs, t) ∧
      rs.drop 258 = (cryptBytes key ps).map (Response.mk .ok) := by
  have hdraws : ∀ i ∈ cryptCmds ps, isDraw i = true := List.forall_mem_map.mpr fun _ _ => rfl
  obtain ⟨rs, t, hsession, hanswers⟩ := loadKey_draws_answers s hk hdraws
  refine ⟨rs, t, hsession, hanswers.trans ?_⟩
  apply List.ext_getElem <;> simp [cryptCmds, cryptBytes, drawAnswer]

/-- Settles O44: the second run's operands are `crypt` of the first run's, by the same key. -/
theorem cryptTwiceIsTheIdentity : Obligations.CryptTwiceIsTheIdentity := by
  intro s key ps hk
  have hdata (bs : List Byte) : (bs.map (Response.mk .ok)).map Response.data = bs :=
    List.map_map.trans (List.map_id bs)
  obtain ⟨rs, t, hfirst, houtput⟩ := loadKey_crypts_answers s hk ps
  obtain ⟨rs', t', hsecond, houtput'⟩ := loadKey_crypts_answers t hk (cryptBytes key ps)
  refine ⟨rs, t, rs', t', hfirst, ?_, ?_⟩
  · rw [houtput, hdata, hsecond]
  · rw [houtput', hdata, cryptBytes_cryptBytes]

/-! ## A key of the wrong length -/

/-- LOADKEY of a wrong number of bytes, from any state: KEY_END fails and the core is IDLE (R54, R59). -/
theorem session_loadKey_wrongLength (s : State) {key : List Byte} (hk : key.length ≠ 256) :
    ∃ rs t, session (words (loadKey key)) s = some (rs ++ [⟨.invalidKeySize, 0⟩], t) ∧ rs.length = key.length + 1 ∧
      t.mode = .idle := by
  obtain ⟨rs, ⟨code, data⟩, t, hload, -, -, hdata, -, hfails⟩ := constructionSucceedsExactlyOn256Bytes s key
  obtain ⟨hcode, hidle, -⟩ := hfails hk
  have hlength := session_length hload
  simp only [words, loadKey, sendKey, List.length_map, List.length_append, List.length_cons, List.length_nil] at hlength
  obtain rfl : code = .invalidKeySize := hcode
  obtain rfl : data = 0 := hdata
  exact ⟨rs, t, hload, by omega, hidle⟩

/-- A failed command leaves the mode, so commands that a mode does not allow fail one after another (R93, R94). -/
theorem session_not_allowed (is : List Instr) {s : State} (h : ∀ i ∈ is, allowed i s.mode = false) :
    ∃ t, session (words is) s = some (is.map fun _ => ⟨.badState, 0⟩, t) := by
  induction is generalizing s with
  | nil => exact ⟨s, rfl⟩
  | cons i is ih =>
    obtain ⟨hi, his⟩ := List.forall_mem_cons.mp h
    have hfails := transact_encode (exec_not_allowed (s := { s with cmd := none, rsp := none }) hi) rfl
    obtain ⟨t, hrest⟩ := ih (s := { s with err := .badState, cmd := none, rsp := none }) his
    exact ⟨t, session_cons hfails hrest⟩

/-- Settles O43, by the key's length: a run of draws, or a failed load and commands that IDLE does not allow. -/
theorem cryptRunXorsWithTheKeystream : Obligations.CryptRunXorsWithTheKeystream := by
  intro s key ps
  by_cases hk : key.length = 256
  · obtain ⟨rs, t, hsession, houtput⟩ := loadKey_crypts_answers s hk ps
    refine ⟨rs, t, hsession, ?_, fun hne => absurd hk hne⟩
    rw [if_pos hk, hk, houtput]
    apply List.ext_getElem <;> simp [cryptBytes]
  · obtain ⟨rs, t, hload, hlength, hidle⟩ := session_loadKey_wrongLength s hk
    have hcrypt : ∀ i ∈ cryptCmds ps, allowed i t.mode = false :=
      List.forall_mem_map.mpr fun p _ => hidle ▸ rfl
    obtain ⟨u, hfails⟩ := session_not_allowed _ hcrypt
    have hsession : session (words (loadKey key ++ cryptCmds ps)) s =
        some (rs ++ [⟨.invalidKeySize, 0⟩] ++ (cryptCmds ps).map fun _ => ⟨.badState, 0⟩, u) := by
      rw [words_append, session_append hload, hfails]
      rfl
    refine ⟨_, u, hsession, ?_, fun _ => ?_⟩
    · rw [if_neg hk, List.drop_left' (by simp [hlength]), cryptCmds, List.map_map]
      rfl
    · rw [List.append_assoc, ← hlength, List.getElem?_append_right le_rfl, Nat.sub_self]
      rfl

end Sys2Proof.Machine
end

section
/-! SUPPORT. Control and observation (44_control.md): an observation changes nothing and repeats (R81), and the rules of NOP,
STATUS, RD_KCNT, RD_S, RD_I, RD_J and CLEAR (R82 to R88). -/

namespace Sys2Proof.Machine

/-! ## Observation -/

/-- No command answers from the response still outstanding. -/
theorem answer_respond (i : Instr) (c : Code) (d : Byte) (s : State) : answer i (respond c d s) = answer i s := by
  cases i <;> rfl

/-- An observer that answers OK gives its answer over an unchanged state; any other way to end it is a refusal. -/
theorem observer_ok {i : Instr} {s t : State} {d : Byte} (hi : isObserver i = true) (h : exec i s = .next t)
    (hr : t.rsp = some ⟨.ok, d⟩) : allowed i s.mode = true ∧ d = answer i s ∧ t = respond .ok (answer i s) s := by
  cases performs_of_exec h with
  | observes _ ha =>
    cases hr
    exact ⟨ha, rfl, rfl⟩
  | wrongMode _ => cases hr
  | draws hdraw _ => rcases hdraw with rfl | rfl | ⟨p, rfl⟩ <;> cases hi
  | wrongCount | begins | stores | drops | primes | clears => cases hi

/-- An observer that its mode allows answers the same again, in the mode and from the fields it left alone. -/
theorem observer_repeats {i : Instr} {s : State} (hi : isObserver i = true) (ha : allowed i s.mode = true) :
    exec i (respond .ok (answer i s) s) = .next (respond .ok (answer i s) s) := by
  have hagain := exec_of_performs (.observes (s := respond .ok (answer i s) s) hi ha)
  rw [answer_respond] at hagain
  exact hagain

theorem named_isObserver : ∀ i ∈ [Instr.nop, .status, .rdKcnt, .rdI, .rdJ, .peek], isObserver i = true := by
  decide

/-- Settles O52: the commands R81 names are the model's observers. -/
theorem observationChangesNothing : Obligations.ObservationChangesNothing := by
  intro i s t d hnamed h hr
  have hi : isObserver i = true := by
    rcases hnamed with hmem | ⟨a, rfl⟩
    · exact named_isObserver i hmem
    · rfl
  obtain ⟨ha, rfl, rfl⟩ := observer_ok hi h hr
  exact ⟨rfl, observer_repeats hi ha⟩

/-! ## Commands legal in every mode -/

/-- Settles O18, by NOP's word and its meaning. -/
theorem nopDoesNothing : Obligations.NopDoesNothing :=
  ⟨decode_encode .nop, refusesUnless_plain (k := .nop) (by decide), exec_nop⟩

/-- The number of a byte put together as R24 puts the status view together. -/
theorem viewFields_toNat (ovf full : Bool) (err : BitVec 3) (mode : BitVec 2) :
    (0#1 ++ BitVec.ofBool ovf ++ BitVec.ofBool full ++ err ++ mode : Byte).toNat =
      (if ovf then 64 else 0) + (if full then 32 else 0) + 4 * err.toNat + mode.toNat := by
  revert ovf full err mode
  decide

theorem statusByte_toNat (s : State) :
    (statusByte s).toNat = (if s.kcount.val = 257 then 64 else 0) + (if 256 ≤ s.kcount.val then 32 else 0) +
      4 * (codeBits s.err).toNat + (modeCode s.mode).toNat := by
  simp only [statusByte, viewFields_toNat, kovf, kfull, decide_eq_true_eq]

/-- Settles O26, by the number of the status view and the values of the code's and the mode's bits. -/
theorem statusAnswersTheView : Obligations.StatusAnswersTheView := by
  refine ⟨decode_encode .status, refusesUnless_plain (k := .status) (by decide), fun s => ⟨_, exec_status s, ?_⟩⟩
  rw [statusByte_toNat]
  congr 2
  · cases s.err <;> rfl
  · cases s.mode <;> rfl

/-- Settles O28, by RD_KCNT's word and its meaning: the byte made of a number is the number modulo 256. -/
theorem rdKcntAnswersTheLowByte : Obligations.RdKcntAnswersTheLowByte :=
  ⟨decode_encode .rdKcnt, refusesUnless_plain (k := .rdKcnt) (by decide),
    fun s => ⟨_, exec_rdKcnt s, BitVec.toNat_ofNat s.kcount.val 8⟩⟩

/-- Settles O32: of R13's elements the status view reads only those CLEAR puts at their reset values, so it is the view at
reset. -/
theorem clearKeepsOnlyTheArray : Obligations.ClearKeepsOnlyTheArray := by
  obtain ⟨-, hreset⟩ := statusViewFields
  exact ⟨decode_encode .clear, refusesUnless_plain (k := .clear) (by decide),
    fun s => ⟨_, exec_clear s, rfl, rfl, rfl, rfl, rfl, rfl, rfl, fun _ => rfl, rfl, ⟨rfl, rfl, rfl⟩, hreset⟩⟩

/-! ## Commands legal in READY -/

/-- Settles O29, by RD_S's words, its mode and its meaning in READY. -/
theorem rdSAnswersTheEntry : Obligations.RdSAnswersTheEntry :=
  ⟨fun a => decode_append_operand (i := .rdS a) (by simp [opcode]), refusesUnless_rsvField _,
    fun _ => onlyIn_of_allowed fun _ => rfl, fun a _ hm => exec_rdS hm a⟩

/-- Settles O30, by RD_I's word, its mode and its meaning in READY. -/
theorem rdIAnswersThePositionCounter : Obligations.RdIAnswersThePositionCounter :=
  ⟨decode_encode .rdI, refusesUnless_plain (k := .rdI) (by decide), onlyIn_of_allowed fun _ => rfl,
    fun _ hm => exec_rdI hm⟩

/-- Settles O31, by RD_J's word, its mode and its meaning in READY. -/
theorem rdJAnswersTheAccumulator : Obligations.RdJAnswersTheAccumulator :=
  ⟨decode_encode .rdJ, refusesUnless_plain (k := .rdJ) (by decide), onlyIn_of_allowed fun _ => rfl,
    fun _ hm => exec_rdJ hm⟩

end Sys2Proof.Machine
end

section
/-! SUPPORT. Exceptions (60_exceptions.md): a step on an accepted word (R89), the cause of each response code (R91), what a failed
command leaves (R93), and the mode table (R94, R95). -/

namespace Sys2Proof.Machine

/-! ## The accepted word -/

/-- A word handed over as the table's number is the word. -/
theorem tableWord_toNat (w : Word) : tableWord 16 w.toNat = w := by
  rw [tableWord, Nat.mod_eq_of_lt w.isLt, BitVec.ofNat_toNat, BitVec.setWidth_eq]

/-- Settles O9: an accepted word is performed, and performing a decoded word is its command's meaning. -/
theorem stepPerformsTheDecodedCommand : Obligations.StepPerformsTheDecodedCommand := by
  refine ⟨fun s w i hcmd hrsp hw => (step_of_cmd hcmd hrsp).trans (performWord_ok hw _), fun s i => ?_⟩
  rw [State.withFetchWord, tableWord_toNat, step_offerWord, performWord_ok (decode_encode i)]

theorem legal_of_decode_ok {w : Word} {i : Instr} (h : decode w = .ok i) : w.legal = true :=
  (legal_iff_exists_encode w).mpr ⟨i, encode_of_decode h⟩

theorem not_legal_of_decode_error {w : Word} {e : DecodeError} (h : decode w = .error e) : w.legal = false := by
  refine Bool.eq_false_iff.mpr fun hlegal => ?_
  obtain ⟨i, rfl⟩ := (legal_iff_exists_encode w).mp hlegal
  rw [decode_encode] at h
  cases h

/-- Performing an illegal word raises ILLEGAL, whatever the mode (R89). -/
theorem performWord_not_legal {w : Word} (h : w.legal = false) (s : State) :
    performWord w s = .next (raiseError .illegal s) := by
  obtain ⟨e, he⟩ := decode_error_of_not_legal h
  exact performWord_error he s

/-! ## The ways a command answers -/

/-- The cause of INVALID_KEY_SIZE (R91): KEY_END in LOADING, with a count that is not 256. -/
def WrongCount (i : Instr) (s : State) : Prop := i = .keyEnd ∧ s.mode = .loading ∧ s.kcount.val ≠ 256

theorem allowed_of_wrongCount {i : Instr} {s : State} (h : WrongCount i s) : allowed i s.mode = true := by
  obtain ⟨rfl, hm, -⟩ := h
  rw [hm]
  rfl

/-- A command fails by its mode, or by KEY_END's count, or it answers OK where neither is at fault (R91). -/
theorem performs_cause {i : Instr} {s t : State} (h : Performs s i t) :
    (allowed i s.mode = false ∧ t = raiseError .badState s) ∨
      (WrongCount i s ∧ t = raiseError .invalidKeySize { s with mode := .idle }) ∨
      (allowed i s.mode = true ∧ ¬ WrongCount i s ∧ ∃ d, t.rsp = some ⟨.ok, d⟩) := by
  cases h with
  | wrongMode ha => exact .inl ⟨ha, rfl⟩
  | wrongCount hm hk => exact .inr (.inl ⟨⟨rfl, hm, hk⟩, rfl⟩)
  | observes hi ha =>
    refine .inr (.inr ⟨ha, ?_, _, rfl⟩)
    rintro ⟨rfl, -, -⟩
    cases hi
  | begins | clears => exact .inr (.inr ⟨rfl, by simp [WrongCount], _, rfl⟩)
  | stores hm _ | drops hm _ => exact .inr (.inr ⟨by simp [allowed, hm], by simp [WrongCount], _, rfl⟩)
  | primes hm hk => exact .inr (.inr ⟨by simp [allowed, hm], fun ⟨_, _, hne⟩ => hne hk, _, rfl⟩)
  | draws hi hm =>
    refine .inr (.inr ⟨allowed_of_draws hi hm, ?_, _, rfl⟩)
    rintro ⟨rfl, -, -⟩
    simp at hi

/-- A command answers each error code exactly for its cause, and never ILLEGAL (R91). -/
theorem performs_code_iff {i : Instr} {s t : State} (h : Performs s i t) :
    ∃ r, t.rsp = some r ∧ r.code ≠ .illegal ∧ (r.code = .badState ↔ allowed i s.mode = false) ∧
      (r.code = .invalidKeySize ↔ WrongCount i s) ∧ (r.code ≠ .ok → r.data = 0) := by
  rcases performs_cause h with ⟨ha, rfl⟩ | ⟨hwrong, rfl⟩ | ⟨ha, hright, d, hr⟩
  · have hright : ¬ WrongCount i s := fun hwrong => by simp [allowed_of_wrongCount hwrong] at ha
    exact ⟨_, raiseError_rsp _ _, by simp, by simp [ha], by simp [hright], fun _ => rfl⟩
  · exact ⟨_, raiseError_rsp _ _, by simp, by simp [allowed_of_wrongCount hwrong], by simp [hwrong], fun _ => rfl⟩
  · exact ⟨_, hr, by simp, by simp [ha], by simp [hright], by simp⟩

/-- Settles O11: an illegal word has no command to be at fault, and a legal one is answered by its command's cause. -/
theorem eachCodeHasExactlyItsCause : Obligations.EachCodeHasExactlyItsCause := by
  intro s w
  rw [step_offerWord]
  rcases performWord_cases w { s with cmd := none, rsp := none } with ⟨e, hw, hp⟩ | ⟨i, t, hw, hp, hperf⟩
  · exact ⟨_, _, hp, rfl, rfl, by simp [not_legal_of_decode_error hw], by simp [hw], by simp [hw], fun _ => rfl⟩
  · obtain ⟨hcmd, -⟩ := performs_answers hperf
    obtain ⟨r, hr, hlegal, hmode, hcount, hdata⟩ := performs_code_iff hperf
    refine ⟨t, r, hp, hr, hcmd, by simp [hlegal, legal_of_decode_ok hw], ?_, ?_, hdata⟩
    · simpa [hw] using hmode
    · simpa [hw, WrongCount] using hcount

/-- Settles O50: of the ways a command answers, the two that fail write `err` and the response, and KEY_END's the mode. -/
theorem failedCommandChangesOnlyErr : Obligations.FailedCommandChangesOnlyErr := by
  refine ⟨fun i s t r h hr hfails => ?_, fun w s hw => performWord_not_legal hw s⟩
  rcases performs_cause (performs_of_exec h) with ⟨-, rfl⟩ | ⟨⟨hi, -, -⟩, rfl⟩ | ⟨-, -, d, hok⟩
  · cases hr
    exact ⟨rfl, rfl, .inl rfl⟩
  · cases hr
    exact ⟨rfl, rfl, .inr ⟨hi, rfl, rfl⟩⟩
  · rw [hok] at hr
    cases hr
    exact absurd rfl hfails

/-! ## The mode table -/

/-- Settles O48: R94's table is `allowed`, row by row, and `allowed` decides BAD_STATE. -/
theorem modeTableDecidesBadState : Obligations.ModeTableDecidesBadState := by
  intro i s
  cases ha : allowed i s.mode with
  | true =>
    obtain ⟨t, ht, hp⟩ := exec_performs i s
    obtain ⟨r, hr, -, hmode, -⟩ := performs_code_iff hp
    refine .inl ⟨?_, t, r, ht, hr, by simp [hmode, ha]⟩
    cases i with
    | nop | keyBegin | status | rdKcnt | clear => trivial
    | keyByte | keyEnd | peek | advance | next | crypt | rdS | rdI | rdJ => exact beq_iff_eq.mp ha
  | false =>
    refine .inr ⟨?_, exec_not_allowed ha⟩
    cases i with
    | nop | keyBegin | status | rdKcnt | clear => cases ha
    | keyByte | keyEnd | peek | advance | next | crypt | rdS | rdI | rdJ => exact beq_eq_false_iff_ne.mp ha

theorem allowed_ready_of_isObserver {i : Instr} (h : isObserver i = true) : allowed i .ready = true := by
  cases i with
  | nop | peek | status | rdS | rdI | rdJ | rdKcnt => rfl
  | keyBegin | keyByte | keyEnd | advance | next | crypt | clear => cases h

/-- Settles O49: each of R95's commands draws or observes, and READY allows both. -/
theorem noErrorAfterConstruction : Obligations.NoErrorAfterConstruction := by
  intro i s hm hi
  have hkind : isDraw i = true ∨ isObserver i = true := by
    rcases hi with hdraw | hmem | ⟨a, rfl⟩
    · exact .inl hdraw
    · exact .inr ((by decide : ∀ k ∈ [Instr.peek, .rdI, .rdJ], isObserver k = true) i hmem)
    · exact .inr rfl
  rcases hkind with hdraw | hobs
  · exact ⟨_, _, exec_of_performs (.draws (isDraw_iff.mp hdraw) hm), rfl, hm⟩
  · exact ⟨_, _, exec_of_performs (.observes hobs (hm ▸ allowed_ready_of_isObserver hobs)), rfl, hm⟩

end Sys2Proof.Machine
end

section
/-! SUPPORT. Reset and the end of a step (70_reset_and_hazards.md): where a step stops (R115), what `rst` leaves between commands
(R106) and while a command is performed (R107), and which commands work at reset (R110). -/

namespace Sys2Proof.Machine

/-! ## Where a step stops -/

theorem portFree_eq_false_iff {v : Word} {s : State} : portFree v s = false ↔ ∃ w, s.cmd = some w ∧ v ≠ w := by
  rw [← Bool.not_eq_true, portFree_iff]
  cases s.cmd with
  | none => simp
  | some w => simpa using ne_comm

theorem hostStep_ne_refused (s : State) (r : Refusal) : hostStep s ≠ .refused r := by
  rcases hhost : s.host with _ | ⟨move, rest⟩
  · simp [hostStep, hhost]
  · cases move with
    | take | rst => simp [hostStep, hhost]
    | offer w | rstDuring w => cases hfree : portFree w s <;> simp [hostStep, hhost, hfree]

/-- Settles O14: a performed word is always answered, and the host's move is never refused and stops the machine only by changing
a held word. -/
theorem stepStopsOnlyForAHostThatChangesItsWord : Obligations.StepStopsOnlyForAHostThatChangesItsWord := by
  intro s
  rcases step_cases s with ⟨w, -, -, hs⟩ | ⟨-, hs⟩
  · obtain ⟨t, -, ht, -⟩ := performWord_answers w { s with cmd := none }
    exact .inl ⟨t, hs.trans ht⟩
  · cases hmove : hostStep s with
    | next t => exact .inl ⟨t, hs.trans hmove⟩
    | fault f =>
      obtain ⟨rfl, v, rest, hhost, hfree⟩ := hostStep_fault hmove
      obtain ⟨w, hcmd, hne⟩ := portFree_eq_false_iff.mp hfree
      exact .inr ⟨hs.trans hmove, w, v, rest, hcmd, hne, hhost⟩
    | refused r => exact absurd hmove (hostStep_ne_refused s r)

/-! ## The reset moves -/

/-- Settles O15: the step is the host's `rst`, which powers the core on. -/
theorem resetGivesEveryElementItsResetValue : Obligations.ResetGivesEveryElementItsResetValue := by
  intro s rest hwait hhost
  have hrst := step_rst hwait rest
  rw [← hhost] at hrst
  exact ⟨_, hrst, rfl, rfl, rfl, rfl, rfl, rfl, powerOn_readS _, rfl, rfl, rfl⟩

/-- Settles O16: at an idle port both moves power the core on from the same state. -/
theorem resetDuringACommandCancelsIt : Obligations.ResetDuringACommandCancelsIt := by
  intro s w rest hcmd hrsp
  have hduring := step_rstDuring (.inl hcmd) (portFree_iff.mpr (.inl hcmd)) (w := w) rest
  have hrst := step_rst (.inl hcmd) rest
  rw [← hcmd] at hduring
  exact ⟨hduring.trans hrst.symm, _, hduring, rfl, hcmd, rfl, rfl, rfl, rfl, rfl, rfl, powerOn_readS _⟩

/-! ## Commands at reset -/

theorem allowed_idle_iff {i : Instr} :
    allowed i .idle = true ↔ i ∈ [Instr.nop, .keyBegin, .status, .rdKcnt, .clear] := by
  cases i <;> simp [allowed]

/-- Settles O17: IDLE allows exactly the five commands, and at reset the status view and the count are 0. -/
theorem commandsThatWorkAfterReset : Obligations.CommandsThatWorkAfterReset := by
  intro i
  by_cases hi : i ∈ [Instr.nop, .keyBegin, .status, .rdKcnt, .clear]
  · rw [if_pos hi]
    simp only [List.mem_cons, List.not_mem_nil, or_false] at hi
    rcases hi with rfl | rfl | rfl | rfl | rfl
    · exact ⟨_, exec_nop _, rfl⟩
    · exact ⟨_, exec_keyBegin _, rfl⟩
    · obtain ⟨-, hview⟩ := statusViewFields
      exact ⟨_, exec_status _, by rw [respond_rsp, hview]⟩
    · exact ⟨_, exec_rdKcnt _, rfl⟩
    · exact ⟨_, exec_clear _, rfl⟩
  · rw [if_neg hi]
    have hidle : allowed i State.reset.mode = false := Bool.eq_false_iff.mpr (mt allowed_idle_iff.mp hi)
    exact ⟨_, exec_not_allowed hidle, rfl⟩

end Sys2Proof.Machine
end
